-- ==== Sys2Proof/Word.lean ====
section
/-! DEFINITION. The bit-vector types of the machine: what the spec treats as unsigned numbers of a fixed width
(00_scope.md R4, 30_encoding.md R51). -/

namespace Sys2Proof

/-- A memory cell, a general register, a timer, an immediate `kk` (10_state.md R10, R15, R17; 30_encoding.md R51). -/
abbrev Byte := BitVec 8

/-- An instruction word, `pc`, `I`, a return address (30_encoding.md R50; 10_state.md R12 to R14). -/
abbrev Word := BitVec 16

/-- The 12-bit field `nnn` (30_encoding.md R51). -/
abbrev Addr12 := BitVec 12

/-- A 4-bit register number, field `x` or `y`, and `wait_reg` (30_encoding.md R51; 10_state.md R18). -/
abbrev RegNo := BitVec 4

/-- A 4-bit number that names no register: the row count `n`, a key number (30_encoding.md R51; 10_state.md R20). -/
abbrev Nibble := BitVec 4

end Sys2Proof
end

