-- ==== Sys2Proof/Syntax.lean ====
section
/-! DEFINITION. The instructions: one constructor for each of the 34 rows of spec/opcode_table.json, in the table's order
(30_encoding.md R55). Operands have the exact width of their field (R51), so every term is an instruction of the hardware. -/

namespace Sys2Proof

/-- The instruction set (30_encoding.md R55). A row that decodes and ignores a field keeps it as an operand (8xy6, 8xyE). -/
inductive Instr where
  /-- 00E0, R152. -/
  | cls
  /-- 00EE, R90. -/
  | ret
  /-- 1nnn, R91. -/
  | jp (nnn : Addr12)
  /-- 2nnn, R92. -/
  | call (nnn : Addr12)
  /-- 3xkk, R94. -/
  | seVxKk (x : RegNo) (kk : Byte)
  /-- 4xkk, R95. -/
  | sneVxKk (x : RegNo) (kk : Byte)
  /-- 5xy0, R96. -/
  | seVxVy (x y : RegNo)
  /-- 6xkk, R110. -/
  | ldVxKk (x : RegNo) (kk : Byte)
  /-- 7xkk, R111. -/
  | addVxKk (x : RegNo) (kk : Byte)
  /-- 8xy0, R112. -/
  | ldVxVy (x y : RegNo)
  /-- 8xy1, R113. -/
  | or (x y : RegNo)
  /-- 8xy2, R114. -/
  | and (x y : RegNo)
  /-- 8xy3, R115. -/
  | xor (x y : RegNo)
  /-- 8xy4, R116. -/
  | addVxVy (x y : RegNo)
  /-- 8xy5, R117. -/
  | sub (x y : RegNo)
  /-- 8xy6, R118; `y` is ignored. -/
  | shr (x y : RegNo)
  /-- 8xy7, R119. -/
  | subn (x y : RegNo)
  /-- 8xyE, R120; `y` is ignored. -/
  | shl (x y : RegNo)
  /-- 9xy0, R97. -/
  | sneVxVy (x y : RegNo)
  /-- Annn, R130. -/
  | ldINnn (nnn : Addr12)
  /-- Bnnn, R93. -/
  | jpV0 (nnn : Addr12)
  /-- Cxkk, R121. -/
  | rnd (x : RegNo) (kk : Byte)
  /-- Dxyn, R153. -/
  | drw (x y : RegNo) (n : Nibble)
  /-- Ex9E, R174. -/
  | skp (x : RegNo)
  /-- ExA1, R175. -/
  | sknp (x : RegNo)
  /-- Fx07, R171. -/
  | ldVxDt (x : RegNo)
  /-- Fx0A, R176. -/
  | ldVxK (x : RegNo)
  /-- Fx15, R172. -/
  | ldDtVx (x : RegNo)
  /-- Fx18, R173. -/
  | ldStVx (x : RegNo)
  /-- Fx1E, R131. -/
  | addIVx (x : RegNo)
  /-- Fx29, R132. -/
  | ldFVx (x : RegNo)
  /-- Fx33, R133. -/
  | ldBVx (x : RegNo)
  /-- Fx55, R134. -/
  | ldMemVx (x : RegNo)
  /-- Fx65, R135. -/
  | ldVxMem (x : RegNo)
deriving DecidableEq, Repr

end Sys2Proof
end

