-- ==== Sys2Proof/WellFormed.lean ====
section
/-! DEFINITION. Well-formedness: an instruction's operands are those of its format, each within its field's width (30_encoding.md
R51, R52). The check is on raw numbers, so that it can refuse; the types of Syntax.lean make every `Instr` pass it
(`Laws.WellFormedOperands`). -/

namespace Sys2Proof

/-- The six formats of 30_encoding.md R52. -/
inductive Format where
  | fixed | nnn | xkk | xy | xyn | x
deriving DecidableEq, Repr

/-- Whether raw operand numbers fit a format: how many there are, and each below two to its field's width (R51). -/
def Format.admits : Format → List Nat → Bool
  | .fixed, []        => true
  | .nnn,   [a]       => decide (a < 4096)
  | .xkk,   [a, b]    => decide (a < 16) && decide (b < 256)
  | .xy,    [a, b]    => decide (a < 16) && decide (b < 16)
  | .xyn,   [a, b, c] => decide (a < 16) && decide (b < 16) && decide (c < 16)
  | .x,     [a]       => decide (a < 16)
  | _,      _         => false

/-- The format column of 30_encoding.md R55. -/
def Instr.format : Instr → Format
  | .cls => .fixed
  | .ret => .fixed
  | .jp _ => .nnn
  | .call _ => .nnn
  | .seVxKk _ _ => .xkk
  | .sneVxKk _ _ => .xkk
  | .seVxVy _ _ => .xy
  | .ldVxKk _ _ => .xkk
  | .addVxKk _ _ => .xkk
  | .ldVxVy _ _ => .xy
  | .or _ _ => .xy
  | .and _ _ => .xy
  | .xor _ _ => .xy
  | .addVxVy _ _ => .xy
  | .sub _ _ => .xy
  | .shr _ _ => .xy
  | .subn _ _ => .xy
  | .shl _ _ => .xy
  | .sneVxVy _ _ => .xy
  | .ldINnn _ => .nnn
  | .jpV0 _ => .nnn
  | .rnd _ _ => .xkk
  | .drw _ _ _ => .xyn
  | .skp _ => .x
  | .sknp _ => .x
  | .ldVxDt _ => .x
  | .ldVxK _ => .x
  | .ldDtVx _ => .x
  | .ldStVx _ => .x
  | .addIVx _ => .x
  | .ldFVx _ => .x
  | .ldBVx _ => .x
  | .ldMemVx _ => .x
  | .ldVxMem _ => .x

/-- The operands as raw numbers, in the order of the fields in the word, high bits first. -/
def Instr.operands : Instr → List Nat
  | .cls => []
  | .ret => []
  | .jp a => [a.toNat]
  | .call a => [a.toNat]
  | .seVxKk x k => [x.toNat, k.toNat]
  | .sneVxKk x k => [x.toNat, k.toNat]
  | .seVxVy x y => [x.toNat, y.toNat]
  | .ldVxKk x k => [x.toNat, k.toNat]
  | .addVxKk x k => [x.toNat, k.toNat]
  | .ldVxVy x y => [x.toNat, y.toNat]
  | .or x y => [x.toNat, y.toNat]
  | .and x y => [x.toNat, y.toNat]
  | .xor x y => [x.toNat, y.toNat]
  | .addVxVy x y => [x.toNat, y.toNat]
  | .sub x y => [x.toNat, y.toNat]
  | .shr x y => [x.toNat, y.toNat]
  | .subn x y => [x.toNat, y.toNat]
  | .shl x y => [x.toNat, y.toNat]
  | .sneVxVy x y => [x.toNat, y.toNat]
  | .ldINnn a => [a.toNat]
  | .jpV0 a => [a.toNat]
  | .rnd x k => [x.toNat, k.toNat]
  | .drw x y n => [x.toNat, y.toNat, n.toNat]
  | .skp x => [x.toNat]
  | .sknp x => [x.toNat]
  | .ldVxDt x => [x.toNat]
  | .ldVxK x => [x.toNat]
  | .ldDtVx x => [x.toNat]
  | .ldStVx x => [x.toNat]
  | .addIVx x => [x.toNat]
  | .ldFVx x => [x.toNat]
  | .ldBVx x => [x.toNat]
  | .ldMemVx x => [x.toNat]
  | .ldVxMem x => [x.toNat]

/-- An instruction is well formed when its format admits its operands. -/
def Instr.wellFormed (i : Instr) : Bool := i.format.admits i.operands

end Sys2Proof
end

