-- ==== Sys2Proof/Decode.lean ====
section
/-! DEFINITION. The decoder of 30_encoding.md R54 as the opcode map of R55, a list of mask and match rows, and after it the encoder,
written from the format column of R52 and the pattern column of R55. -/

namespace Sys2Proof

/-- The 16-bit word of two bytes, the byte at the lower address in bits 15..8 (20_memory.md R35). -/
def wordOf (hi lo : Byte) : Word := hi ++ lo

/-- Bits 15..8 of a word. -/
def highByte (w : Word) : Byte := w.extractLsb' 8 8

/-- Bits 7..0 of a word. -/
def lowByte (w : Word) : Byte := w.extractLsb' 0 8

/-- Field `x`, bits 11..8 (30_encoding.md R51). -/
def fieldX (op : Word) : RegNo := op.extractLsb' 8 4

/-- Field `y`, bits 7..4 (R51). -/
def fieldY (op : Word) : RegNo := op.extractLsb' 4 4

/-- Field `n`, bits 3..0 (R51). -/
def fieldN (op : Word) : Nibble := op.extractLsb' 0 4

/-- Field `nnn`, bits 11..0 (R51). -/
def fieldNnn (op : Word) : Addr12 := op.extractLsb' 0 12

/-- Field `kk`, bits 7..0 (R51). -/
def fieldKk (op : Word) : Byte := op.extractLsb' 0 8

/-- Field `top`, bits 15..12 (R51). -/
def fieldTop (op : Word) : BitVec 4 := op.extractLsb' 12 4

/-- Why bytes are no instruction. -/
inductive Reject where
  /-- The word matches no row of the opcode map (30_encoding.md R56). The step reports it and goes on (40_cycle_fsm.md R73): no stop. -/
  | unrecognised (op : Word)
  /-- Fewer than the two bytes of a word were given (R50). The machine's own fetch always gives two, so no step meets this. -/
  | truncated
deriving DecidableEq, Repr

/-- A row of the opcode map: the words `op` with `op &&& mask = value`, and the instruction each of them is. -/
structure OpcodeRow where
  mask : Word
  value : Word
  build : Word → Instr

/-- Whether a word selects a row: "exactly when `op & mask = match`" (30_encoding.md R55). -/
def rowMatches (r : OpcodeRow) (op : Word) : Bool := op &&& r.mask == r.value

/-- Families 0 to 7 of the opcode map (30_encoding.md R55). -/
def opcodeMapLow : List OpcodeRow :=
  [ ⟨0xFFFF, 0x00E0, fun _ => .cls⟩,
    ⟨0xFFFF, 0x00EE, fun _ => .ret⟩,
    ⟨0xF000, 0x1000, fun op => .jp (fieldNnn op)⟩,
    ⟨0xF000, 0x2000, fun op => .call (fieldNnn op)⟩,
    ⟨0xF000, 0x3000, fun op => .seVxKk (fieldX op) (fieldKk op)⟩,
    ⟨0xF000, 0x4000, fun op => .sneVxKk (fieldX op) (fieldKk op)⟩,
    ⟨0xF00F, 0x5000, fun op => .seVxVy (fieldX op) (fieldY op)⟩,
    ⟨0xF000, 0x6000, fun op => .ldVxKk (fieldX op) (fieldKk op)⟩,
    ⟨0xF000, 0x7000, fun op => .addVxKk (fieldX op) (fieldKk op)⟩ ]

/-- Family 8 of the opcode map (30_encoding.md R55). -/
def opcodeMapEight : List OpcodeRow :=
  [ ⟨0xF00F, 0x8000, fun op => .ldVxVy (fieldX op) (fieldY op)⟩,
    ⟨0xF00F, 0x8001, fun op => .or (fieldX op) (fieldY op)⟩,
    ⟨0xF00F, 0x8002, fun op => .and (fieldX op) (fieldY op)⟩,
    ⟨0xF00F, 0x8003, fun op => .xor (fieldX op) (fieldY op)⟩,
    ⟨0xF00F, 0x8004, fun op => .addVxVy (fieldX op) (fieldY op)⟩,
    ⟨0xF00F, 0x8005, fun op => .sub (fieldX op) (fieldY op)⟩,
    ⟨0xF00F, 0x8006, fun op => .shr (fieldX op) (fieldY op)⟩,
    ⟨0xF00F, 0x8007, fun op => .subn (fieldX op) (fieldY op)⟩,
    ⟨0xF00F, 0x800E, fun op => .shl (fieldX op) (fieldY op)⟩ ]

/-- Families 9 to E of the opcode map (30_encoding.md R55). -/
def opcodeMapMiddle : List OpcodeRow :=
  [ ⟨0xF00F, 0x9000, fun op => .sneVxVy (fieldX op) (fieldY op)⟩,
    ⟨0xF000, 0xA000, fun op => .ldINnn (fieldNnn op)⟩,
    ⟨0xF000, 0xB000, fun op => .jpV0 (fieldNnn op)⟩,
    ⟨0xF000, 0xC000, fun op => .rnd (fieldX op) (fieldKk op)⟩,
    ⟨0xF000, 0xD000, fun op => .drw (fieldX op) (fieldY op) (fieldN op)⟩,
    ⟨0xF0FF, 0xE09E, fun op => .skp (fieldX op)⟩,
    ⟨0xF0FF, 0xE0A1, fun op => .sknp (fieldX op)⟩ ]

/-- Family F of the opcode map (30_encoding.md R55). -/
def opcodeMapF : List OpcodeRow :=
  [ ⟨0xF0FF, 0xF007, fun op => .ldVxDt (fieldX op)⟩,
    ⟨0xF0FF, 0xF00A, fun op => .ldVxK (fieldX op)⟩,
    ⟨0xF0FF, 0xF015, fun op => .ldDtVx (fieldX op)⟩,
    ⟨0xF0FF, 0xF018, fun op => .ldStVx (fieldX op)⟩,
    ⟨0xF0FF, 0xF01E, fun op => .addIVx (fieldX op)⟩,
    ⟨0xF0FF, 0xF029, fun op => .ldFVx (fieldX op)⟩,
    ⟨0xF0FF, 0xF033, fun op => .ldBVx (fieldX op)⟩,
    ⟨0xF0FF, 0xF055, fun op => .ldMemVx (fieldX op)⟩,
    ⟨0xF0FF, 0xF065, fun op => .ldVxMem (fieldX op)⟩ ]

/-- The opcode map, in the order of 30_encoding.md R55. -/
def opcodeMap : List OpcodeRow := opcodeMapLow ++ opcodeMapEight ++ opcodeMapMiddle ++ opcodeMapF

/-- Decode one instruction word (30_encoding.md R54): the row it selects, or none. -/
def decodeWord (op : Word) : Except Reject Instr :=
  match opcodeMap.find? (fun r => rowMatches r op) with
  | some r => .ok (r.build op)
  | none => .error (.unrecognised op)

/-- Decode the first instruction of a byte sequence, high byte first (20_memory.md R35), and return the bytes after it. -/
def decode : List Byte → Except Reject (Instr × List Byte)
  | hi :: lo :: rest =>
    match decodeWord (wordOf hi lo) with
    | .ok i => .ok (i, rest)
    | .error e => .error e
  | [_] => .error .truncated
  | [] => .error .truncated

/-- Format NNN (30_encoding.md R52). -/
def packNnn (top : BitVec 4) (nnn : Addr12) : Word := top ++ nnn

/-- Format XKK (R52). -/
def packXkk (top : BitVec 4) (x : RegNo) (kk : Byte) : Word := top ++ (x ++ kk)

/-- Formats XY and XYN (R52): the last digit is the sub-opcode, or the operand `n`. -/
def packXyn (top : BitVec 4) (x y : RegNo) (n : BitVec 4) : Word := top ++ (x ++ (y ++ n))

/-- The word of an instruction (30_encoding.md R52, R55). -/
def encodeWord : Instr → Word
  | .cls => 0x00E0
  | .ret => 0x00EE
  | .jp nnn => packNnn 0x1 nnn
  | .call nnn => packNnn 0x2 nnn
  | .seVxKk x kk => packXkk 0x3 x kk
  | .sneVxKk x kk => packXkk 0x4 x kk
  | .seVxVy x y => packXyn 0x5 x y 0x0
  | .ldVxKk x kk => packXkk 0x6 x kk
  | .addVxKk x kk => packXkk 0x7 x kk
  | .ldVxVy x y => packXyn 0x8 x y 0x0
  | .or x y => packXyn 0x8 x y 0x1
  | .and x y => packXyn 0x8 x y 0x2
  | .xor x y => packXyn 0x8 x y 0x3
  | .addVxVy x y => packXyn 0x8 x y 0x4
  | .sub x y => packXyn 0x8 x y 0x5
  | .shr x y => packXyn 0x8 x y 0x6
  | .subn x y => packXyn 0x8 x y 0x7
  | .shl x y => packXyn 0x8 x y 0xE
  | .sneVxVy x y => packXyn 0x9 x y 0x0
  | .ldINnn nnn => packNnn 0xA nnn
  | .jpV0 nnn => packNnn 0xB nnn
  | .rnd x kk => packXkk 0xC x kk
  | .drw x y n => packXyn 0xD x y n
  | .skp x => packXkk 0xE x 0x9E
  | .sknp x => packXkk 0xE x 0xA1
  | .ldVxDt x => packXkk 0xF x 0x07
  | .ldVxK x => packXkk 0xF x 0x0A
  | .ldDtVx x => packXkk 0xF x 0x15
  | .ldStVx x => packXkk 0xF x 0x18
  | .addIVx x => packXkk 0xF x 0x1E
  | .ldFVx x => packXkk 0xF x 0x29
  | .ldBVx x => packXkk 0xF x 0x33
  | .ldMemVx x => packXkk 0xF x 0x55
  | .ldVxMem x => packXkk 0xF x 0x65

/-- The two bytes of an instruction as they lie in memory, the high byte at the lower address (20_memory.md R35). -/
def encode (i : Instr) : List Byte := [highByte (encodeWord i), lowByte (encodeWord i)]

/-- The word that `w` gives when only its low `nbits` bits count, every bit above them being 0. -/
def tableWord (nbits w : Nat) : Word := BitVec.ofNat 16 (w % 2 ^ nbits)

/-- The instruction the decoder reads from a word numbered as spec/opcode_table.json numbers its bits: the word laid out in memory order
(high byte first) and given to `decode`. -/
def decodeTableWord (nbits w : Nat) : Option Instr :=
  match decode [highByte (tableWord nbits w), lowByte (tableWord nbits w)] with
  | .ok (i, _) => some i
  | .error _ => none

end Sys2Proof
end

