-- ==== Sys2Proof/Config.lean ====
section
/-! DEFINITION. The implementation parameters of 00_scope.md R3 with the values this hardware takes, and the one free value of
the model. `FONT` is not here: the spec leaves its bytes open, and the model carries it in the field `font` of State (log 6). -/

namespace Sys2Proof.Config

/-- `MEM_SIZE`: memory cells, addresses 0..4095 (R3, R30). -/
abbrev memSize : Nat := 4096

/-- `ADDR_BITS`: the low bits of an address that select a memory cell (R3, R31; the spec's own decision D5, log 9). -/
abbrev addrBits : Nat := 12

/-- `FONT_BASE`: the address of glyph 0 (R3, R33). -/
abbrev fontBase : Nat := 0

/-- `FONT_BYTES`: the 16 glyphs of 5 bytes at cells 0..79 (R3, R33). -/
abbrev fontBytes : Nat := 80

/-- `GLYPH_BYTES`: bytes of one glyph, the factor of Fx29 (R3, R132). -/
abbrev glyphBytes : Nat := 5

/-- `PROG_BASE`: load address of a program and reset value of `pc` (R3, R43, R210). -/
abbrev progBase : Nat := 0x200

/-- `NREGS`: general registers (R3, R10). -/
abbrev nregs : Nat := 16

/-- `I_BITS`: width of the index register, a `Word` (R3, R12). -/
abbrev iBits : Nat := 16

/-- `PC_BITS`: width of the program counter, a `Word` (R3, R13). -/
abbrev pcBits : Nat := 16

/-- `STACK_DEPTH`: most return addresses the call stack holds (R3, R14; the spec's own decision D6). -/
abbrev stackDepth : Nat := 16

/-- `FB_WIDTH`: frame-buffer columns (R3, R16). -/
abbrev fbWidth : Nat := 128

/-- `FB_HEIGHT`: frame-buffer rows (R3, R16). -/
abbrev fbHeight : Nat := 64

/-- `SPRITE_WIDTH`: pixels of one sprite row (R3, R154). -/
abbrev spriteWidth : Nat := 8

/-- `SLOTS_PER_TICK`: instruction slots of one tick-group (R3, R75). -/
abbrev slotsPerTick : Nat := 10

/-- `TICK_RATE`: tick-groups per second, the host's target; "timing only, no rule depends on it" (R3), and no definition uses it (log 14). -/
abbrev tickRate : Nat := 60

/-- `NKEYS`: keys 0x0..0xF (R3, R20). -/
abbrev nkeys : Nat := 16

/-- FREE VALUE (log 5): the `k`-th sample of the `rnd` input that the environment has not written down in advance. "any value
0..255, under no law" (10_state.md R20, 42_alu.md R121, decision D12): no proof can see what it is. -/
opaque rndSample : Nat → Byte

end Sys2Proof.Config
end

