-- ==== Sys2Proof/Machine/Font.lean ====
section
/-! DEFINITION. The value of the parameter `FONT` (00_scope.md R3, 20_memory.md R34) in the reset state. PRESUMED (log 6): the spec leaves the 80
bytes open and prints this customary table as a default "from general knowledge, not in source". No statement rests on it: State carries
the parameter in a field, and a statement over all states holds for every `FONT`. -/

namespace Sys2Proof.Machine

/-- The customary glyphs of 20_memory.md R34, glyph 0 first. Unsafe (log 6). -/
def customaryFont : Vector Byte Config.fontBytes :=
  #v[0xF0, 0x90, 0x90, 0x90, 0xF0,  0x20, 0x60, 0x20, 0x20, 0x70,
     0xF0, 0x10, 0xF0, 0x80, 0xF0,  0xF0, 0x10, 0xF0, 0x10, 0xF0,
     0x90, 0x90, 0xF0, 0x10, 0x10,  0xF0, 0x80, 0xF0, 0x10, 0xF0,
     0xF0, 0x80, 0xF0, 0x90, 0xF0,  0xF0, 0x10, 0x20, 0x40, 0x40,
     0xF0, 0x90, 0xF0, 0x90, 0xF0,  0xF0, 0x90, 0xF0, 0x10, 0xF0,
     0xF0, 0x90, 0xF0, 0x90, 0x90,  0xE0, 0x90, 0xE0, 0x90, 0xE0,
     0xF0, 0x80, 0x80, 0x80, 0xF0,  0xE0, 0x90, 0x90, 0x90, 0xE0,
     0xF0, 0x80, 0xF0, 0x80, 0xF0,  0xF0, 0x80, 0xF0, 0x80, 0x80]

end Sys2Proof.Machine
end

