-- ==== Sys2Proof/Machine/State.lean ====
section
/-! DEFINITION. The machine's state as plain data, the reasons a step can stop, and the state after reset (10_state.md, 70_reset_and_hazards.md
R210). Fields down to `tone` are the spec's state; the fields after it are the model's own (the parameter `FONT`, the interface signals of
10_state.md R20, the position in the tick-group of R21). -/

namespace Sys2Proof.Machine

/-- Running, or Paused with the number of the register that will receive the key (10_state.md R18: `paused` and `wait_reg` "as one optional
value, absent when Running"; log 1). -/
inductive RunState where
  | running
  | paused (waitReg : RegNo)
deriving DecidableEq, Repr

/-- What the host may do between tick-groups besides `tick` (10_state.md R20, 40_cycle_fsm.md R70). -/
inductive HostOp where
  /-- A new press of key `k` (40_cycle_fsm.md R77). -/
  | keyPress (k : Nibble)
  /-- The levels `keys[0..15]` become these (10_state.md R20). -/
  | setKeys (levels : BitVec Config.nkeys)
  /-- 70_reset_and_hazards.md R210. -/
  | reset
  /-- 20_memory.md R43. -/
  | load (bytes : List Byte)
deriving DecidableEq, Repr

/-- One event of the host: `tick` (40_cycle_fsm.md R75) or an operation between tick-groups. -/
inductive HostEvent where
  | tick
  | op (o : HostOp)
deriving DecidableEq, Repr

/-- An output event (10_state.md R20). -/
inductive Report where
  /-- `bad_opcode(op, addr0)`: an unrecognised word was executed (40_cycle_fsm.md R73). -/
  | badOpcode (op addr0 : Word)
  /-- A load of this many bytes was refused as too long (20_memory.md R43, 60_exceptions.md R202). -/
  | loadRefused (length : Nat)
deriving DecidableEq, Repr

/-- Memory as the cells that differ from their reset content, in one canonical form (`Memory.wf` in Ops.lean). -/
abbrev Memory := List Host.Cell

/-- The whole state. -/
structure State where
  /-- `V[0]`..`V[15]` (10_state.md R10); `V[0xF]` is the flag (R11). -/
  V : Vector Byte Config.nregs
  /-- The index register (R12). -/
  I : Word
  /-- The program counter (R13). -/
  pc : Word
  /-- The call stack, the newest return address first (R14; log 8). -/
  stack : List Word
  /-- The delay timer (R15). -/
  DT : Byte
  /-- The sound timer (R15). -/
  ST : Byte
  /-- The frame buffer: row `py`, whose bit `px` is the cell `FB[px, py]` (R16; log 10). -/
  FB : Vector (BitVec Config.fbWidth) Config.fbHeight
  /-- The cells of memory that differ from their reset content (R17, 20_memory.md R30). -/
  mem : Memory
  /-- Running or Paused (R18). -/
  run : RunState
  /-- The output `tone` (R19). -/
  tone : Bool
  /-- The parameter `FONT[0..79]` (00_scope.md R3, 20_memory.md R34); no step changes it (log 6). -/
  font : Vector Byte Config.fontBytes
  /-- The input levels `keys[0..15]` (R20; log 2). -/
  keys : BitVec Config.nkeys
  /-- What the host will do at the next boundaries, in order (40_cycle_fsm.md R70; log 3). -/
  hostQueue : List HostEvent
  /-- The next slot of the tick-group, 0 between tick-groups (R21, 40_cycle_fsm.md R75; log 4). -/
  slot : Fin Config.slotsPerTick
  /-- Whether the host may load here (70_reset_and_hazards.md R212; log 11). -/
  loadAllowed : Bool
  /-- Samples of `rnd` the environment has written down in advance (R20; log 5). -/
  rndInput : List Byte
  /-- How many samples were taken from `Config.rndSample` (log 5). -/
  rndDrawn : Nat
  /-- The output event of the last step (R20, 40_cycle_fsm.md R73; log 7). -/
  report : Option Report
deriving DecidableEq, Repr

/-- The model faults of 60_exceptions.md R191. The state after one is undefined (41_control_flow.md R99), so it holds none. -/
inductive Fault where
  /-- Raised by 2nnn when the stack holds 16 entries, with the address of the 2nnn (R99, R92). Safe: the hardware does something there that
  the spec gives no proof to rely on (log 8). -/
  | stackOverflow (addr0 : Word)
  /-- Raised by 00EE when the stack is empty, with the address of the 00EE (R99, R90). Safe, as above (log 8). -/
  | stackUnderflow (addr0 : Word)
deriving DecidableEq, Repr

/-- Why a step has no meaning. -/
inductive Refusal where
  /-- Raised by `exec`'s arm of an instruction that has no meaning yet. Safe. No arm raises it in this model. -/
  | notModelled (mnemonic : String)
  /-- Raised by the host operation `load` anywhere but between a reset and the first tick-group: "a model should not admit it" (70_reset_and_hazards.md
  R212, decision D26). No instruction raises it. Safe (log 11). -/
  | loadNotAdmitted
deriving DecidableEq, Repr

/-- The state right after reset (70_reset_and_hazards.md R210; power-on performs reset, R211). The fields from `font` on are the model's own
(log 2 to 7 and 11). -/
def State.reset : State where
  V := Vector.replicate Config.nregs 0
  I := 0
  pc := BitVec.ofNat 16 Config.progBase
  stack := []
  DT := 0
  ST := 0
  FB := Vector.replicate Config.fbHeight 0
  mem := []
  run := .running
  tone := false
  font := customaryFont
  keys := 0
  hostQueue := []
  slot := 0
  loadAllowed := true
  rndInput := []
  rndDrawn := 0
  report := none

end Sys2Proof.Machine
end

