-- ==== Sys2Proof/Machine/Operands.lean ====
section
/-! DEFINITION. The operand forms: zero extension of immediates, the one addressing mode, the cell an address selects, the key number, the decimal
digits, the glyph address. -/

namespace Sys2Proof.Machine

/-- The memory cell an address selects: `addr mod 4096`, "that is its low 12 bits" (20_memory.md R31, decision D5). -/
def cellOf (addr : Word) : Nat := addr.toNat % 2 ^ Config.addrBits

/-- `zext_16(nnn)` (30_encoding.md R53). -/
def zextAddr (nnn : Addr12) : Word := nnn.setWidth 16

/-- `zext_16(V[x])` (00_scope.md R5). -/
def zextByte (v : Byte) : Word := v.setWidth 16

/-- Register number of a count below 16. -/
def regOf (r : Nat) : RegNo := BitVec.ofNat 4 r

/-- Effective address `I + r` (43_index_memory.md R136). -/
def State.effAddr (s : State) (r : Nat) : Word := s.I + BitVec.ofNat 16 r

/-- The address the executing instruction was fetched from, `addr0`: during execute `pc` holds `addr0 + 2` (40_cycle_fsm.md R72). -/
def State.addr0 (s : State) : Word := s.pc - 2

/-- The key number `V[x] mod 16` (45_timers_keys.md R177). -/
def keyNumber (v : Byte) : Nibble := BitVec.ofNat 4 (v.toNat % Config.nkeys)

/-- Whether key `k` is held: `keys[k] = 1` (10_state.md R20). -/
def State.keyHeld (s : State) (k : Nibble) : Bool := s.keys.getLsbD k.toNat

/-- `v div 100` (43_index_memory.md R133). -/
def hundredsDigit (v : Byte) : Byte := BitVec.ofNat 8 (v.toNat / 100)

/-- `(v div 10) mod 10` (R133). -/
def tensDigit (v : Byte) : Byte := BitVec.ofNat 8 (v.toNat / 10 % 10)

/-- `v mod 10` (R133). -/
def onesDigit (v : Byte) : Byte := BitVec.ofNat 8 (v.toNat % 10)

/-- `zext_16(v) * 5`, the address of glyph `v` for `v` in 0..15 (43_index_memory.md R132), counted from `FONT_BASE`, which is 0 (00_scope.md R3). -/
def glyphAddr (v : Byte) : Word := BitVec.ofNat 16 Config.fontBase + zextByte v * BitVec.ofNat 16 Config.glyphBytes

end Sys2Proof.Machine
end

