-- ==== Sys2Proof/Machine/Ops.lean ====
section
/-! DEFINITION. The named operations over registers, memory, call stack, frame buffer, timers and the random input. There is no
operation that takes an exception: the hardware has none (60_exceptions.md R190, R194, R195). -/

namespace Sys2Proof.Machine

/-- Read `V[x]` (10_state.md R10). -/
def State.getV (s : State) (x : RegNo) : Byte := s.V.get x.toFin

/-- `V[x] <- v` (10_state.md R10). -/
def State.setV (s : State) (x : RegNo) (v : Byte) : State := { s with V := s.V.set x.toNat v x.isLt }

/-- What a cell reads as when memory does not list it: its reset content, `FONT` in the 80 cells from `FONT_BASE` = 0 and 0 in the rest (70_reset_and_hazards.md R210,
00_scope.md R3). -/
def unlisted (font : Vector Byte Config.fontBytes) (a : Nat) : Byte :=
  if h : Config.fontBase ≤ a ∧ a - Config.fontBase < Config.fontBytes then font[a - Config.fontBase] else 0

/-- The listed value of a cell, or `d` where it is not listed. -/
def Memory.lookup (d : Byte) (a : Nat) : Memory → Byte
  | [] => d
  | (k, v) :: m => if k = a then v else Memory.lookup d a m

/-- List `v` for cell `a`, in address order, in place of what was listed for it. -/
def Memory.insert (a : Nat) (v : Byte) : Memory → Memory
  | [] => [(a, v)]
  | (k, w) :: m =>
    if k < a then (k, w) :: Memory.insert a v m
    else if k = a then (a, v) :: m
    else (a, v) :: (k, w) :: m

/-- List nothing for cell `a`. -/
def Memory.erase (a : Nat) : Memory → Memory
  | [] => []
  | (k, w) :: m => if k = a then Memory.erase a m else (k, w) :: Memory.erase a m

/-- Store `v` in cell `a`, whose reset content is `d`, keeping the canonical form. -/
def Memory.store (d : Byte) (a : Nat) (v : Byte) (m : Memory) : Memory :=
  if v = d then Memory.erase a m else Memory.insert a v m

/-- Addresses at least `lo`, below 4096, strictly rising, and no cell listed with its reset content. -/
def Memory.wfFrom (font : Vector Byte Config.fontBytes) (lo : Nat) : Memory → Bool
  | [] => true
  | (k, v) :: m =>
    decide (lo ≤ k) && decide (k < Config.memSize) && decide (v ≠ unlisted font k) && Memory.wfFrom font (k + 1) m

/-- The canonical form of memory, given the reset content that `font` fixes. -/
def Memory.wf (font : Vector Byte Config.fontBytes) (m : Memory) : Bool := Memory.wfFrom font 0 m

/-- The content of cell `a`. -/
def State.readCell (s : State) (a : Nat) : Byte := Memory.lookup (unlisted s.font a) a s.mem

/-- `mem[a] <- v`. -/
def State.writeCell (s : State) (a : Nat) (v : Byte) : State :=
  { s with mem := Memory.store (unlisted s.font a) a v s.mem }

/-- `MemRead(addr, 1)` (20_memory.md R32). -/
def State.readByte (s : State) (addr : Word) : Byte := s.readCell (cellOf addr)

/-- `MemWrite(addr, 1, v)` (20_memory.md R32). -/
def State.writeByte (s : State) (addr : Word) (v : Byte) : State := s.writeCell (cellOf addr) v

/-- `pc <- target` (00_scope.md R5). -/
def State.jumpTo (s : State) (target : Word) : State := { s with pc := target }

/-- `pc <- (pc + 2) mod 65536` (40_cycle_fsm.md R71 (2), 41_control_flow.md R98). -/
def State.advance (s : State) : State := s.jumpTo (s.pc + 2)

/-- "skip next instruction" when the condition holds (41_control_flow.md R98). -/
def State.skipIf (s : State) (c : Bool) : State := if c then s.advance else s

/-- `I <- a`. -/
def State.setI (s : State) (a : Word) : State := { s with I := a }

/-- The frame-buffer row of a coordinate: `y mod 64` (44_display.md R150). -/
def rowOf (y : Nat) : Fin Config.fbHeight := ⟨y % Config.fbHeight, Nat.mod_lt _ (by decide)⟩

/-- The frame-buffer column of a coordinate: `x mod 128` (44_display.md R150). -/
def columnOf (x : Nat) : Nat := x % Config.fbWidth

/-- The frame-buffer cell at column `x mod 128`, row `y mod 64` (10_state.md R16). -/
def State.pixel (s : State) (x y : Nat) : Bool := (s.FB.get (rowOf y)).getLsbD (columnOf x)

/-- `fb_read(px, py)`, the host's read port (10_state.md R20, 44_display.md R156). -/
def State.fbRead (s : State) (px : Fin Config.fbWidth) (py : Fin Config.fbHeight) : Bool := s.pixel px.val py.val

/-- The frame buffer with the cell at column `x mod 128`, row `y mod 64` flipped (44_display.md R150). -/
def State.flipPixel (s : State) (x y : Nat) : State :=
  let row := s.FB.get (rowOf y) ^^^ BitVec.twoPow Config.fbWidth (columnOf x)
  { s with FB := s.FB.set (rowOf y).val row (rowOf y).isLt }

/-- `togglePixel(x, y) -> wasTurnedOn` (44_display.md R150): whether the cell went from off to on, and the state after. -/
def State.togglePixel (s : State) (x y : Nat) : Bool × State := (!s.pixel x y, s.flipPixel x y)

/-- `clear()` (44_display.md R151). -/
def State.clear (s : State) : State := { s with FB := Vector.replicate Config.fbHeight 0 }

/-- One counter of the timer tick: down by 1 if above 0 (45_timers_keys.md R170). -/
def countDown (v : Byte) : Byte := if 0 < v.toNat then v - 1 else v

/-- `TimerTick()` (45_timers_keys.md R170). -/
def State.timerTick (s : State) : State := { s with DT := countDown s.DT, ST := countDown s.ST }

/-- `tone <- (ST > 0)` (40_cycle_fsm.md R78). -/
def State.driveTone (s : State) : State := { s with tone := decide (0 < s.ST.toNat) }

/-- The value of the next sample of `rnd`: the next one written down in advance, or else the next free value (42_alu.md R121; log 5). -/
def State.rndNext (s : State) : Byte :=
  match s.rndInput with
  | r :: _ => r
  | [] => Config.rndSample s.rndDrawn

/-- The state after the sample `rndNext` is taken. -/
def State.rndTake (s : State) : State :=
  match s.rndInput with
  | _ :: rest => { s with rndInput := rest }
  | [] => { s with rndDrawn := s.rndDrawn + 1 }

/-- `report e` (00_scope.md R5): drive the output event. -/
def State.emit (s : State) (e : Report) : State := { s with report := some e }

end Sys2Proof.Machine
end

