-- ==== Sys2Proof/Machine/Flags.lean ====
section
/-! DEFINITION. The flag computations of 42_alu.md and the write of the flag register `V[0xF]` (10_state.md R11). -/

namespace Sys2Proof.Machine

/-- The number of the flag register (10_state.md R11). -/
abbrev regF : RegNo := 0xF

/-- A flag's value: 1 or 0. -/
def flagBit (c : Bool) : Byte := if c then 1 else 0

/-- The carry of 8xy4: 1 if the 9-bit sum exceeds 255 (42_alu.md R116). -/
def carryFlag (a b : Byte) : Byte := flagBit (decide (255 < a.toNat + b.toNat))

/-- The flag of 8xy5 and 8xy7: 1 if the minuend is strictly greater (42_alu.md R117, R119, R122). -/
def greaterFlag (minuend subtrahend : Byte) : Byte := flagBit (decide (subtrahend.toNat < minuend.toNat))

/-- The flag of 8xy6: bit 0 (42_alu.md R118). -/
def lowBitFlag (a : Byte) : Byte := a &&& 1

/-- The flag of 8xyE: bit 7 (42_alu.md R120). -/
def highBitFlag (a : Byte) : Byte := flagBit (a &&& 0x80 != 0)

/-- `V[0xF] <- f`. -/
def State.setFlag (s : State) (f : Byte) : State := s.setV regF f

end Sys2Proof.Machine
end

