-- ==== Sys2Proof/Machine/Alu.lean ====
section
/-! DEFINITION. Register load, arithmetic, logic, shift, random (42_alu.md). The statements of one instruction take effect in the order written,
each read seeing the writes before it (00_scope.md R6, 42_alu.md R123; the spec's decision D3, log 9). -/

namespace Sys2Proof.Machine

/-- 6xkk: `V[x] <- kk` (R110). -/
def execLdVxKk (x : RegNo) (kk : Byte) (s : State) : Host.Outcome State Fault Refusal := .next (s.setV x kk)

/-- 7xkk: `V[x] <- (V[x] + kk) mod 256`, no flag (R111). -/
def execAddVxKk (x : RegNo) (kk : Byte) (s : State) : Host.Outcome State Fault Refusal :=
  .next (s.setV x (s.getV x + kk))

/-- 8xy0: `V[x] <- V[y]` (R112). -/
def execLdVxVy (x y : RegNo) (s : State) : Host.Outcome State Fault Refusal := .next (s.setV x (s.getV y))

/-- 8xy1: `V[x] <- V[x] | V[y]`, no flag (R113). -/
def execOr (x y : RegNo) (s : State) : Host.Outcome State Fault Refusal := .next (s.setV x (s.getV x ||| s.getV y))

/-- 8xy2: `V[x] <- V[x] & V[y]`, no flag (R114). -/
def execAnd (x y : RegNo) (s : State) : Host.Outcome State Fault Refusal := .next (s.setV x (s.getV x &&& s.getV y))

/-- 8xy3: `V[x] <- V[x] ^ V[y]`, no flag (R115). -/
def execXor (x y : RegNo) (s : State) : Host.Outcome State Fault Refusal := .next (s.setV x (s.getV x ^^^ s.getV y))

/-- 8xy4: `sum` is computed first, then the flag is written, then the result (R116). -/
def execAddVxVy (x y : RegNo) (s : State) : Host.Outcome State Fault Refusal :=
  let sum : BitVec 9 := (s.getV x).setWidth 9 + (s.getV y).setWidth 9
  let flagged := s.setFlag (carryFlag (s.getV x) (s.getV y))
  .next (flagged.setV x (sum.setWidth 8))

/-- 8xy5: the flag is written first, and the difference reads its operands after that (R117). -/
def execSub (x y : RegNo) (s : State) : Host.Outcome State Fault Refusal :=
  let flagged := s.setFlag (greaterFlag (s.getV x) (s.getV y))
  .next (flagged.setV x (flagged.getV x - flagged.getV y))

/-- 8xy6: the flag is bit 0 of `V[x]`, written first; then `V[x] <- V[x] >> 1`; `y` is ignored (R118). -/
def execShr (x _y : RegNo) (s : State) : Host.Outcome State Fault Refusal :=
  let flagged := s.setFlag (lowBitFlag (s.getV x))
  .next (flagged.setV x (flagged.getV x >>> 1))

/-- 8xy7: as 8xy5 with the operands exchanged (R119). -/
def execSubn (x y : RegNo) (s : State) : Host.Outcome State Fault Refusal :=
  let flagged := s.setFlag (greaterFlag (s.getV y) (s.getV x))
  .next (flagged.setV x (flagged.getV y - flagged.getV x))

/-- 8xyE: the flag is bit 7 of `V[x]`, written first; then `V[x] <- (V[x] << 1) mod 256`; `y` is ignored (R120). -/
def execShl (x _y : RegNo) (s : State) : Host.Outcome State Fault Refusal :=
  let flagged := s.setFlag (highBitFlag (s.getV x))
  .next (flagged.setV x (flagged.getV x <<< 1))

/-- Cxkk: `V[x] <- r & kk` for one sample `r` of the `rnd` input (R121). -/
def execRnd (x : RegNo) (kk : Byte) (s : State) : Host.Outcome State Fault Refusal :=
  .next (s.rndTake.setV x (s.rndNext &&& kk))

end Sys2Proof.Machine
end

