-- ==== Sys2Proof/Machine/Control.lean ====
section
/-! DEFINITION. Control transfer (41_control_flow.md). Each meaning is the execute phase: `pc` already holds `addr0 + 2` (40_cycle_fsm.md R72). -/

namespace Sys2Proof.Machine

/-- 00EE: pop the newest return address into `pc` (R90); a model fault on an empty stack (R99). -/
def execRet (s : State) : Host.Outcome State Fault Refusal :=
  match s.stack with
  | [] => .fault (.stackUnderflow s.addr0)
  | t :: rest => .next ({ s with stack := rest }.jumpTo t)

/-- 1nnn: `pc <- zext_16(nnn)` (R91). -/
def execJp (nnn : Addr12) (s : State) : Host.Outcome State Fault Refusal := .next (s.jumpTo (zextAddr nnn))

/-- 2nnn: push the advanced `pc`, then `pc <- zext_16(nnn)` (R92); a model fault on a full stack (R99). -/
def execCall (nnn : Addr12) (s : State) : Host.Outcome State Fault Refusal :=
  if Config.stackDepth ≤ s.stack.length then .fault (.stackOverflow s.addr0)
  else .next ({ s with stack := s.pc :: s.stack }.jumpTo (zextAddr nnn))

/-- Bnnn: `pc <- (zext_16(nnn) + zext_16(V[0])) mod 65536` (R93). -/
def execJpV0 (nnn : Addr12) (s : State) : Host.Outcome State Fault Refusal :=
  .next (s.jumpTo (zextAddr nnn + zextByte (s.getV 0)))

/-- 3xkk: skip if `V[x] = kk` (R94). -/
def execSeVxKk (x : RegNo) (kk : Byte) (s : State) : Host.Outcome State Fault Refusal :=
  .next (s.skipIf (s.getV x == kk))

/-- 4xkk: skip if `V[x] != kk` (R95). -/
def execSneVxKk (x : RegNo) (kk : Byte) (s : State) : Host.Outcome State Fault Refusal :=
  .next (s.skipIf (s.getV x != kk))

/-- 5xy0: skip if `V[x] = V[y]` (R96). -/
def execSeVxVy (x y : RegNo) (s : State) : Host.Outcome State Fault Refusal :=
  .next (s.skipIf (s.getV x == s.getV y))

/-- 9xy0: skip if `V[x] != V[y]` (R97). -/
def execSneVxVy (x y : RegNo) (s : State) : Host.Outcome State Fault Refusal :=
  .next (s.skipIf (s.getV x != s.getV y))

end Sys2Proof.Machine
end

