-- ==== Sys2Proof/Machine/Display.lean ====
section
/-! DEFINITION. Frame buffer and drawing (44_display.md). -/

namespace Sys2Proof.Machine

/-- One pixel of a draw: toggle the cell, and set the flag if it went from off to on (R153). -/
def drawPixel (x y : Nat) (s : State) : State :=
  let toggled := s.togglePixel x y
  if toggled.1 then toggled.2.setFlag 1 else toggled.2

/-- Column `c` of a sprite row `b`: drawn if bit `7 - c` is 1 (R153, R154). -/
def drawColumn (x0 y : Nat) (b : Byte) (s : State) (c : Nat) : State :=
  if b.getLsbD (7 - c) then drawPixel (x0 + c) y s else s

/-- Row `r` of a sprite: the byte at `I + r` on frame-buffer row `y0 + r`, its eight columns in ascending order (R153, R154). -/
def drawRow (x0 y0 : Nat) (s : State) (r : Nat) : State :=
  (List.range Config.spriteWidth).foldl (drawColumn x0 (y0 + r) (s.readByte (s.effAddr r))) s

/-- The rows `0 .. rows - 1` of a sprite with origin `(x0, y0)` (R153 step 3). -/
def drawSprite (x0 y0 rows : Nat) (s : State) : State := (List.range rows).foldl (drawRow x0 y0) s

/-- 00E0: `clear()` (R152). -/
def execCls (s : State) : Host.Outcome State Fault Refusal := .next s.clear

/-- Dxyn: the flag is cleared, then the origin is read once, then the rows are drawn (R153; the spec's decision D10, log 9). -/
def execDrw (x y : RegNo) (n : Nibble) (s : State) : Host.Outcome State Fault Refusal :=
  let flagged := s.setFlag 0
  .next (drawSprite (flagged.getV x).toNat (flagged.getV y).toNat n.toNat flagged)

end Sys2Proof.Machine
end

