-- ==== Sys2Proof/Machine/IndexMem.lean ====
section
/-! DEFINITION. Index register and memory transfer (43_index_memory.md). Each address is reduced modulo 4096 on its own (20_memory.md R31), and
`I` is left unchanged by the transfers (R136). -/

namespace Sys2Proof.Machine

/-- `MemWrite(I + r, 1, V[r])` for `r` = 0 .. count - 1, ascending (R134). -/
def storeRegs (count : Nat) (s : State) : State :=
  (List.range count).foldl (fun t r => t.writeByte (t.effAddr r) (t.getV (regOf r))) s

/-- `V[r] <- MemRead(I + r, 1)` for `r` = 0 .. count - 1, ascending (R135). -/
def loadRegs (count : Nat) (s : State) : State :=
  (List.range count).foldl (fun t r => t.setV (regOf r) (t.readByte (t.effAddr r))) s

/-- The three stores of Fx33: hundreds, tens, ones of `v` at `I`, `I + 1`, `I + 2` (R133). -/
def storeDigits (v : Byte) (s : State) : State :=
  ((s.writeByte (s.effAddr 0) (hundredsDigit v)).writeByte (s.effAddr 1) (tensDigit v)).writeByte (s.effAddr 2)
    (onesDigit v)

/-- Annn: `I <- zext_16(nnn)` (R130). -/
def execLdINnn (nnn : Addr12) (s : State) : Host.Outcome State Fault Refusal := .next (s.setI (zextAddr nnn))

/-- Fx1E: `I <- (I + zext_16(V[x])) mod 65536`, no flag (R131; the spec's decision D7). -/
def execAddIVx (x : RegNo) (s : State) : Host.Outcome State Fault Refusal := .next (s.setI (s.I + zextByte (s.getV x)))

/-- Fx29: `I <- zext_16(V[x]) * 5` (R132). -/
def execLdFVx (x : RegNo) (s : State) : Host.Outcome State Fault Refusal := .next (s.setI (glyphAddr (s.getV x)))

/-- Fx33: the decimal digits of `V[x]` at `I`, `I + 1`, `I + 2` (R133). -/
def execLdBVx (x : RegNo) (s : State) : Host.Outcome State Fault Refusal := .next (storeDigits (s.getV x) s)

/-- Fx55: store `V[0]` .. `V[x]` (R134). -/
def execLdMemVx (x : RegNo) (s : State) : Host.Outcome State Fault Refusal := .next (storeRegs (x.toNat + 1) s)

/-- Fx65: load `V[0]` .. `V[x]` (R135). -/
def execLdVxMem (x : RegNo) (s : State) : Host.Outcome State Fault Refusal := .next (loadRegs (x.toNat + 1) s)

end Sys2Proof.Machine
end

