-- ==== Sys2Proof/Machine/TimersKeys.lean ====
section
/-! DEFINITION. Timer and key instructions (45_timers_keys.md). -/

namespace Sys2Proof.Machine

/-- Fx07: `V[x] <- DT` (R171). -/
def execLdVxDt (x : RegNo) (s : State) : Host.Outcome State Fault Refusal := .next (s.setV x s.DT)

/-- Fx15: `DT <- V[x]` (R172). -/
def execLdDtVx (x : RegNo) (s : State) : Host.Outcome State Fault Refusal := .next { s with DT := s.getV x }

/-- Fx18: `ST <- V[x]`; `tone` waits for the end of the tick-group (R173). -/
def execLdStVx (x : RegNo) (s : State) : Host.Outcome State Fault Refusal := .next { s with ST := s.getV x }

/-- Ex9E: skip if key `V[x] mod 16` is held (R174, R177). -/
def execSkp (x : RegNo) (s : State) : Host.Outcome State Fault Refusal :=
  .next (s.skipIf (s.keyHeld (keyNumber (s.getV x))))

/-- ExA1: skip if key `V[x] mod 16` is not held (R175, R177). -/
def execSknp (x : RegNo) (s : State) : Host.Outcome State Fault Refusal :=
  .next (s.skipIf (!s.keyHeld (keyNumber (s.getV x))))

/-- Fx0A: `paused <- 1`, `wait_reg <- x`; the register is written by the later key press (R176). -/
def execLdVxK (x : RegNo) (s : State) : Host.Outcome State Fault Refusal := .next { s with run := .paused x }

end Sys2Proof.Machine
end

