-- ==== Sys2Proof/Machine/HostOps.lean ====
section
/-! DEFINITION. The operations of the host between tick-groups: reset, load, key press, change of the key levels (10_state.md R20, 40_cycle_fsm.md R70). -/

namespace Sys2Proof.Machine

/-- `reset` (70_reset_and_hazards.md R210): every piece of the core's state takes its reset value. The parameter `FONT` and the inputs (keys, host queue,
random samples) are not state of the core and stay (log 12). -/
def hostReset (s : State) : State :=
  { State.reset with
    font := s.font, keys := s.keys, hostQueue := s.hostQueue, rndInput := s.rndInput, rndDrawn := s.rndDrawn }

/-- `key_press(k)` (40_cycle_fsm.md R77): taken if Paused, dropped if Running. -/
def hostKeyPress (k : Nibble) (s : State) : State :=
  match s.run with
  | .paused x => { s.setV x (k.setWidth 8) with run := .running }
  | .running => s

/-- Copy bytes into the cells from `a` upward, not wrapping (20_memory.md R43). -/
def copyBytes : Nat → List Byte → State → State
  | _, [], s => s
  | a, b :: bs, s => copyBytes (a + 1) bs (s.writeCell a b)

/-- Whether a program of `len` bytes fits: not `len + 0x200 > 4096` (20_memory.md R43). -/
def loadFits (len : Nat) : Bool := decide (len + Config.progBase ≤ Config.memSize)

/-- `load(bytes)` (20_memory.md R43): copied to 0x200 upward, or refused with no cell changed and a report to the host. It is admitted only between a
reset and the first tick-group (70_reset_and_hazards.md R212; log 11). -/
def hostLoad (bytes : List Byte) (s : State) : Host.Outcome State Fault Refusal :=
  if s.loadAllowed then
    if loadFits bytes.length then .next { copyBytes Config.progBase bytes s with loadAllowed := false }
    else .next (s.emit (.loadRefused bytes.length))
  else .refused .loadNotAdmitted

/-- One operation of the host. -/
def hostOp : HostOp → State → Host.Outcome State Fault Refusal
  | .keyPress k, s => .next (hostKeyPress k s)
  | .setKeys levels, s => .next { s with keys := levels }
  | .reset, s => .next (hostReset s)
  | .load bytes, s => hostLoad bytes s

end Sys2Proof.Machine
end

