-- ==== Sys2Proof/Machine/Cycle.lean ====
section
/-! DEFINITION. The fetch/decode/execute cycle, the slots of a tick-group and the host's boundary (40_cycle_fsm.md). `cycle` is what Step.lean's `step` calls. -/

namespace Sys2Proof.Machine

/-- Apply `f` to the next state, if there is one. -/
def onNext (f : State → State) : Host.Outcome State Fault Refusal → Host.Outcome State Fault Refusal
  | .next t => .next (f t)
  | .fault r => .fault r
  | .refused r => .refused r

/-- The instruction word at `pc` and `pc + 1`, high byte first (40_cycle_fsm.md R71 (1), 20_memory.md R35). -/
def State.fetchWord (s : State) : Word := wordOf (s.readByte s.pc) (s.readByte (s.pc + 1))

/-- The instruction step (40_cycle_fsm.md R71): fetch, advance, decode, execute; an unrecognised word is reported with the address it was fetched
from and changes nothing more (R73). -/
def instructionStep (s : State) : Host.Outcome State Fault Refusal :=
  match decodeWord s.fetchWord with
  | .ok i => exec i s.advance
  | .error _ => .next (s.advance.emit (.badOpcode s.fetchWord s.pc))

/-- One slot (40_cycle_fsm.md R75): an instruction step if Running, nothing if Paused (R74, R76). -/
def slotStep (s : State) : Host.Outcome State Fault Refusal :=
  match s.run with
  | .running => instructionStep s
  | .paused _ => .next s

/-- The output event port is idle until something drives it (log 7). -/
def State.quiet (s : State) : State := { s with report := none }

/-- The host's queue after the `tick` that begins a tick-group: an explicit `tick` is used up, an empty queue stands for one more tick (log 3). -/
def takeTick : List HostEvent → List HostEvent
  | .tick :: q => q
  | q => q

/-- The host's `tick` begins a tick-group: it is taken from the queue, and no load is admitted from here on (70_reset_and_hazards.md R212). -/
def State.beginGroup (s : State) : State := { s with hostQueue := takeTick s.hostQueue, loadAllowed := false }

/-- The end of a tick-group: the timer tick, then the tone (40_cycle_fsm.md R75, R78). -/
def State.endGroup (s : State) : State := s.timerTick.driveTone

/-- Whether the slot at hand is the last of its tick-group. -/
def State.lastSlot (s : State) : Bool := s.slot.val + 1 == Config.slotsPerTick

/-- The start of a slot; slot 0 begins the tick-group. -/
def State.openSlot (s : State) : State := if s.slot = 0 then s.quiet.beginGroup else s.quiet

/-- The end of a slot: on to the next one, and after the last one the tick-group ends (40_cycle_fsm.md R75). -/
def State.closeSlot (s : State) : State :=
  let t := if s.lastSlot then s.endGroup else s
  { t with slot := s.slot + 1 }

/-- The state a host operation acts on: the output event port idle, the operation taken from the queue. -/
def State.withQueue (s : State) (q : List HostEvent) : State := { s with report := none, hostQueue := q }

/-- The host operation that waits at this boundary, and the state with it taken from the queue: only between tick-groups (40_cycle_fsm.md R70), and not when
the host's next event is a `tick`. -/
def State.pendingOp (s : State) : Option (HostOp × State) :=
  if s.slot = 0 then
    match s.hostQueue with
    | .op o :: q => some (o, s.withQueue q)
    | _ => none
  else none

/-- One step of the machine: the host operation that waits at this boundary, or else one slot (log 3, 4). -/
def cycle (s : State) : Host.Outcome State Fault Refusal :=
  match s.pendingOp with
  | some (o, t) => hostOp o t
  | none => onNext State.closeSlot (slotStep s.openSlot)

/-- `k` slots one after the other, stopping at a model fault (40_cycle_fsm.md R75's loop). -/
def runSlots : Nat → State → Host.Outcome State Fault Refusal
  | 0, s => .next s
  | k + 1, s =>
    match slotStep s.quiet with
    | .next t => runSlots k t
    | .fault r => .fault r
    | .refused r => .refused r

/-- A tick-group as ONE operation (40_cycle_fsm.md R75): ten slots, the timer tick, the tone. -/
def tickGroup (s : State) : Host.Outcome State Fault Refusal :=
  onNext State.endGroup (runSlots Config.slotsPerTick s.beginGroup)

/-- A queue whose next event is a `tick`, whatever it was. -/
def tickFirst : List HostEvent → List HostEvent
  | .op o :: q => .tick :: .op o :: q
  | q => q

/-- The state with a word stored at `pc` and `pc + 1`, Running, and a `tick` as the host's next event if a boundary is at hand: what it takes that the very next step
runs that word (log 13). -/
def State.placeWord (s : State) (w : Word) : State :=
  let t := (s.writeByte s.pc (highByte w)).writeByte (s.pc + 1) (lowByte w)
  { t with
    run := .running, hostQueue := if s.slot = 0 then tickFirst s.hostQueue else s.hostQueue }

end Sys2Proof.Machine
end

