-- ==== Sys2Proof/Machine/Step.lean ====
section
/-! DEFINITION. One step of the machine, and the placing of one instruction where it is fetched next. -/

namespace Sys2Proof.Machine

/-- One step (40_cycle_fsm.md R70, R71, R75): `cycle`. -/
def step (s : State) : Host.Outcome State Fault Refusal := cycle s

/-- `s` with the instruction word `w` where `step` fetches its next instruction (log 13). -/
def State.withFetchWord (s : State) (nbits w : Nat) : State := s.placeWord (Sys2Proof.tableWord nbits w)

end Sys2Proof.Machine
end

