-- ==== Sys2Proof/Safety.lean ====
section
/-! DEFINITION. The terms claims are made in: frames (what a change of state leaves alone), the destinations of each instruction, the
invariant of every reachable state, and the cells a sprite covers. -/

namespace Sys2Proof.Safety

open Sys2Proof.Machine

/-- What an instruction may change; everything it does not name stays. `cells` are memory cells, 0..4095. -/
structure Touched where
  regs : List RegNo := []
  cells : List Nat := []
  index : Bool := false
  pc : Bool := false
  stack : Bool := false
  delay : Bool := false
  sound : Bool := false
  frameBuffer : Bool := false
  runState : Bool := false
  random : Bool := false

/-- The inputs and outputs that no instruction writes: `tone`, `FONT`, `keys`, the host's queue, the slot, `loadAllowed`, the report
port (10_state.md R19 to R21). -/
def SameSurroundings (s t : State) : Prop :=
  t.tone = s.tone ∧ t.font = s.font ∧ t.keys = s.keys ∧ t.hostQueue = s.hostQueue ∧ t.slot = s.slot ∧
    t.loadAllowed = s.loadAllowed ∧ t.report = s.report

/-- From `s` to `t` nothing changes but what `k` names: every other register, every other byte of memory, every other frame-buffer cell. -/
def Frame (k : Touched) (s t : State) : Prop :=
  (∀ r : RegNo, r ∉ k.regs → t.getV r = s.getV r) ∧
  (∀ a : Word, cellOf a ∉ k.cells → t.readByte a = s.readByte a) ∧
  (k.index = false → t.I = s.I) ∧
  (k.pc = false → t.pc = s.pc) ∧
  (k.stack = false → t.stack = s.stack) ∧
  (k.delay = false → t.DT = s.DT) ∧
  (k.sound = false → t.ST = s.ST) ∧
  (k.frameBuffer = false → ∀ px py, t.fbRead px py = s.fbRead px py) ∧
  (k.runState = false → t.run = s.run) ∧
  (k.random = false → t.rndInput = s.rndInput ∧ t.rndDrawn = s.rndDrawn) ∧
  SameSurroundings s t

/-- The machine goes on from `o`, to a state of which `P` holds. -/
def Completes (o : Host.Outcome State Fault Refusal) (P : State → Prop) : Prop := ∃ t, o = .next t ∧ P t

/-- The instruction word with the number `n` is the instruction `i`. -/
def DecodesAs (n : Nat) (i : Instr) : Prop := decodeWord (BitVec.ofNat 16 n) = .ok i

/-- The general registers an instruction may write (10_state.md R10: "Instructions that write one"). -/
def destRegs : Instr → List RegNo
  | .cls => []
  | .ret => []
  | .jp _ => []
  | .call _ => []
  | .seVxKk _ _ => []
  | .sneVxKk _ _ => []
  | .seVxVy _ _ => []
  | .ldVxKk x _ => [x]
  | .addVxKk x _ => [x]
  | .ldVxVy x _ => [x]
  | .or x _ => [x]
  | .and x _ => [x]
  | .xor x _ => [x]
  | .addVxVy x _ => [x, 0xF]
  | .sub x _ => [x, 0xF]
  | .shr x _ => [x, 0xF]
  | .subn x _ => [x, 0xF]
  | .shl x _ => [x, 0xF]
  | .sneVxVy _ _ => []
  | .ldINnn _ => []
  | .jpV0 _ => []
  | .rnd x _ => [x]
  | .drw _ _ _ => [0xF]
  | .skp _ => []
  | .sknp _ => []
  | .ldVxDt x => [x]
  | .ldVxK _ => []
  | .ldDtVx _ => []
  | .ldStVx _ => []
  | .addIVx _ => []
  | .ldFVx _ => []
  | .ldBVx _ => []
  | .ldMemVx _ => []
  | .ldVxMem x => (List.range (x.toNat + 1)).map regOf

/-- The memory cells an instruction stores to, from the state it executes in (20_memory.md R37). -/
def destCells (i : Instr) (s : State) : List Nat :=
  match i with
  | .ldBVx _ => (List.range 3).map (fun r => cellOf (s.effAddr r))
  | .ldMemVx x => (List.range (x.toNat + 1)).map (fun r => cellOf (s.effAddr r))
  | _ => []

/-- The instructions that write `pc` in their execute phase (10_state.md R13). -/
def writesPc : Instr → Bool
  | .ret => true
  | .jp _ => true
  | .call _ => true
  | .jpV0 _ => true
  | .seVxKk _ _ => true
  | .sneVxKk _ _ => true
  | .seVxVy _ _ => true
  | .sneVxVy _ _ => true
  | .skp _ => true
  | .sknp _ => true
  | _ => false

/-- The instructions that write `I` (10_state.md R12). -/
def writesIndex : Instr → Bool
  | .ldINnn _ => true
  | .addIVx _ => true
  | .ldFVx _ => true
  | _ => false

/-- The instructions that write the frame buffer (10_state.md R16). -/
def writesFrameBuffer : Instr → Bool
  | .cls => true
  | .drw _ _ _ => true
  | _ => false

/-- The instructions that read or write the call stack (10_state.md R14). -/
def usesStack : Instr → Bool
  | .ret => true
  | .call _ => true
  | _ => false

/-- The invariant of every state a run reaches: memory in its canonical form, at most 16 return addresses (10_state.md R14), and between
tick-groups `tone` is `ST > 0` (R19). -/
def Inv (s : State) : Prop :=
  Memory.wf s.font s.mem = true ∧ s.stack.length ≤ Config.stackDepth ∧
    (s.slot = 0 → s.tone = decide (0 < s.ST.toNat))

/-- A load is admitted only where the core is as reset left it (70_reset_and_hazards.md R212). -/
def LoadInv (s : State) : Prop :=
  s.loadAllowed = true →
    s = { State.reset with
          font := s.font, keys := s.keys, hostQueue := s.hostQueue, rndInput := s.rndInput, rndDrawn := s.rndDrawn,
          report := s.report }

/-- The column or row of a draw's origin: the register, or 0 if it is the flag register, which the draw clears first (44_display.md R153 (e)). -/
def origin (s : State) (x : RegNo) : Nat := if x = 0xF then 0 else (s.getV x).toNat

/-- Whether a sprite of `n` rows at `I`, drawn at `(x0, y0)`, has a 1 bit for the frame-buffer cell `(px, py)`: bit `7 - c` of the byte at `I + r` stands for
column `(x0 + c) mod 128` of row `(y0 + r) mod 64` (44_display.md R153, R154). -/
def covers (s : State) (x0 y0 n px py : Nat) : Prop :=
  ∃ r c : Nat, r < n ∧ c < 8 ∧ (x0 + c) % 128 = px ∧ (y0 + r) % 64 = py ∧
    (s.readByte (s.effAddr r)).getLsbD (7 - c) = true

end Sys2Proof.Safety
end

