-- ==== Sys2Proof/Certificates/Slice0/Obligations.lean ====
section
/-! DEFINITION. The statements for the provers. Every statement is about all states, reachable or not, unless a hypothesis says otherwise. `exec i s` is
the execute phase of 40_cycle_fsm.md R71: `s.pc` is already the address of the instruction plus 2 (R72), so a statement that needs the address it was
fetched from takes `addr0` with `s.pc = addr0 + 2`. -/

open Sys2Proof Sys2Proof.Machine Sys2Proof.Safety

/-! Encoding (30_encoding.md) -/

/-- R52, R54, R55: the decoder reads every instruction back from its two bytes, with every operand, and leaves the bytes after it. That the ignored field `y` of 8xy6 and
8xyE is an operand, and the byte-list form of the decoder, are the model's choices (log 16). -/
def Obligations.DecodeOfEncodeIsTheInstruction : Prop :=
  ∀ (i : Instr) (rest : List Byte), i.wellFormed = true ∧ decode (encode i ++ rest) = .ok (i, rest)

/-- R54, R55: a word has one meaning, and no bit of it is lost: encoding what it decodes to gives the word back. For 8xy6 and 8xyE this rests on the model's choice to keep
the ignored field `y` as an operand (log 16), for families 5 and 9 on exact matching, the spec's decision D17 (log 9). -/
def Obligations.EncodeOfDecodeIsTheWord : Prop :=
  ∀ (op : Word) (i : Instr), decodeWord op = .ok i → encodeWord i = op

/-- R54: "No two patterns overlap, so the order of matching does not matter", an inference the spec marks as its own; the masks are those of exact matching, the spec's
decision D17 (log 9). -/
def Obligations.NoTwoPatternsOverlap : Prop :=
  opcodeMap.Pairwise (fun a b => ∀ op : Word, ¬ (rowMatches a op = true ∧ rowMatches b op = true))

/-- R56: the unrecognised words are exactly the listed ones, family by family (the spec's decision D17, log 9). -/
def Obligations.UnrecognisedWordsAreThoseListed : Prop :=
  ∀ op : Word, decodeWord op = .error (.unrecognised op) ↔
    (fieldTop op = 0x0 ∧ op ≠ 0x00E0 ∧ op ≠ 0x00EE) ∨
    (fieldTop op = 0x5 ∧ fieldN op ≠ 0) ∨
    (fieldTop op = 0x8 ∧ fieldN op ∈ ([0x8, 0x9, 0xA, 0xB, 0xC, 0xD, 0xF] : List (BitVec 4))) ∨
    (fieldTop op = 0x9 ∧ fieldN op ≠ 0) ∨
    (fieldTop op = 0xE ∧ fieldKk op ∉ ([0x9E, 0xA1] : List Byte)) ∨
    (fieldTop op = 0xF ∧ fieldKk op ∉ ([0x07, 0x0A, 0x15, 0x18, 0x1E, 0x29, 0x33, 0x55, 0x65] : List Byte))

/-- R55: nine words, of families 0, 2, 5, 7, 8, A, D, E and F, decoded from bytes as memory holds them (R35). That 0x5341 is unrecognised (R54, R56) is the spec's
decision D17 (log 9). -/
def Obligations.ListedWordsDecodeAsWritten : Prop :=
  decode [0x00, 0xE0] = .ok (.cls, []) ∧ decode [0x23, 0x00] = .ok (.call 0x300, []) ∧
  decode [0x53, 0x40] = .ok (.seVxVy 3 4, []) ∧ decode [0x71, 0xFF] = .ok (.addVxKk 1 0xFF, []) ∧
  decode [0x8A, 0xB7] = .ok (.subn 0xA 0xB, []) ∧ decode [0xA2, 0x0E] = .ok (.ldINnn 0x20E, []) ∧
  decode [0xD7, 0xA5] = .ok (.drw 7 0xA 5, []) ∧ decode [0xE5, 0x9E] = .ok (.skp 5, []) ∧
  decode [0xF1, 0x0A] = .ok (.ldVxK 1, []) ∧ decode [0x53, 0x41] = .error (.unrecognised 0x5341)

/-! Control transfer (41_control_flow.md) -/

/-- R91: 1nnn. -/
def Obligations.JumpGoesToItsTarget : Prop :=
  ∀ (nnn : Addr12) (s : State),
    DecodesAs (0x1000 + nnn.toNat) (.jp nnn) ∧
    Completes (exec (.jp nnn) s) fun t => t.pc.toNat = nnn.toNat ∧ Frame { pc := true } s t

/-- R92: 2nnn pushes the address of the instruction after it. On a full stack it stops with the model fault, which is the spec's decision D6 (R99, log 8).
That `addr0 + 2` wraps at 16 bits is decision D4 (log 9). -/
def Obligations.CallPushesTheNextAddress : Prop :=
  ∀ (nnn : Addr12) (addr0 : Word) (s : State), s.pc = addr0 + 2 →
    DecodesAs (0x2000 + nnn.toNat) (.call nnn) ∧
    (s.stack.length < 16 → Completes (exec (.call nnn) s) fun t =>
      t.stack = (addr0 + 2) :: s.stack ∧ t.pc.toNat = nnn.toNat ∧ Frame { pc := true, stack := true } s t) ∧
    (s.stack.length = 16 → exec (.call nnn) s = .fault (.stackOverflow addr0))

/-- R90: 00EE pops the newest return address. On an empty stack it stops with the model fault, which is the spec's decision D6 (R99, log 8). -/
def Obligations.ReturnPopsTheNewestAddress : Prop :=
  ∀ (addr0 : Word) (s : State), s.pc = addr0 + 2 →
    DecodesAs 0x00EE .ret ∧
    (∀ (target : Word) (rest : List Word), s.stack = target :: rest → Completes (exec .ret s) fun t =>
      t.pc = target ∧ t.stack = rest ∧ Frame { pc := true, stack := true } s t) ∧
    (s.stack = [] → exec .ret s = .fault (.stackUnderflow addr0))

/-- R90, R92 (DOC00 §8): a call and the return after it restore `pc` and the whole state. The depth of 16 is the spec's decision D6 (log 8). -/
def Obligations.ReturnUndoesCall : Prop :=
  ∀ (nnn : Addr12) (s : State), s.stack.length < 16 →
    Completes (exec (.call nnn) s) fun t => exec .ret t = .next s

/-- R93: Bnnn adds `V[0]`, and the sum is not reduced to 12 bits. -/
def Obligations.JumpWithOffsetAddsRegisterZero : Prop :=
  ∀ (nnn : Addr12) (s : State),
    DecodesAs (0xB000 + nnn.toNat) (.jpV0 nnn) ∧
    Completes (exec (.jpV0 nnn) s) fun t => t.pc.toNat = nnn.toNat + (s.getV 0).toNat ∧ Frame { pc := true } s t

/-- R94, R95, with R98: 3xkk and 4xkk skip on the comparison with the immediate; `pc` wraps at 16 bits (the spec's decision D4, log 9). -/
def Obligations.SkipOnImmediateComparison : Prop :=
  ∀ (x : RegNo) (kk : Byte) (addr0 : Word) (s : State), s.pc = addr0 + 2 →
    DecodesAs (0x3000 + 0x100 * x.toNat + kk.toNat) (.seVxKk x kk) ∧
    DecodesAs (0x4000 + 0x100 * x.toNat + kk.toNat) (.sneVxKk x kk) ∧
    (Completes (exec (.seVxKk x kk) s) fun t =>
      t.pc = (if s.getV x = kk then addr0 + 4 else addr0 + 2) ∧ Frame { pc := true } s t) ∧
    (Completes (exec (.sneVxKk x kk) s) fun t =>
      t.pc = (if s.getV x = kk then addr0 + 2 else addr0 + 4) ∧ Frame { pc := true } s t)

/-- R96, R97, with R98: 5xy0 and 9xy0 skip on the comparison of two registers; `pc` wraps at 16 bits (the spec's decision D4, log 9). -/
def Obligations.SkipOnRegisterComparison : Prop :=
  ∀ (x y : RegNo) (addr0 : Word) (s : State), s.pc = addr0 + 2 →
    DecodesAs (0x5000 + 0x100 * x.toNat + 0x10 * y.toNat) (.seVxVy x y) ∧
    DecodesAs (0x9000 + 0x100 * x.toNat + 0x10 * y.toNat) (.sneVxVy x y) ∧
    (Completes (exec (.seVxVy x y) s) fun t =>
      t.pc = (if s.getV x = s.getV y then addr0 + 4 else addr0 + 2) ∧ Frame { pc := true } s t) ∧
    (Completes (exec (.sneVxVy x y) s) fun t =>
      t.pc = (if s.getV x = s.getV y then addr0 + 2 else addr0 + 4) ∧ Frame { pc := true } s t)

/-- R174, R175: Ex9E and ExA1 skip on the level of key `V[x] mod 16` (R177, the spec's decision D11, log 9; the levels are a field of State, log 2);
`pc` wraps at 16 bits (decision D4, log 9). -/
def Obligations.SkipOnKeyLevel : Prop :=
  ∀ (x : RegNo) (addr0 : Word) (s : State), s.pc = addr0 + 2 →
    DecodesAs (0xE09E + 0x100 * x.toNat) (.skp x) ∧ DecodesAs (0xE0A1 + 0x100 * x.toNat) (.sknp x) ∧
    (Completes (exec (.skp x) s) fun t =>
      t.pc = (if s.keys.getLsbD ((s.getV x).toNat % 16) = true then addr0 + 4 else addr0 + 2) ∧
        Frame { pc := true } s t) ∧
    (Completes (exec (.sknp x) s) fun t =>
      t.pc = (if s.keys.getLsbD ((s.getV x).toNat % 16) = true then addr0 + 2 else addr0 + 4) ∧
        Frame { pc := true } s t)

/-! Register load, arithmetic, logic, shift, random (42_alu.md) -/

/-- R110, R112, R171: 6xkk, 8xy0, Fx07. -/
def Obligations.LoadsCopyTheirSource : Prop :=
  ∀ (x y : RegNo) (kk : Byte) (s : State),
    DecodesAs (0x6000 + 0x100 * x.toNat + kk.toNat) (.ldVxKk x kk) ∧
    DecodesAs (0x8000 + 0x100 * x.toNat + 0x10 * y.toNat) (.ldVxVy x y) ∧
    DecodesAs (0xF007 + 0x100 * x.toNat) (.ldVxDt x) ∧
    (Completes (exec (.ldVxKk x kk) s) fun t => t.getV x = kk ∧ Frame { regs := [x] } s t) ∧
    (Completes (exec (.ldVxVy x y) s) fun t => t.getV x = s.getV y ∧ Frame { regs := [x] } s t) ∧
    (Completes (exec (.ldVxDt x) s) fun t => t.getV x = s.DT ∧ Frame { regs := [x] } s t)

/-- R111: 7xkk wraps modulo 256 and writes no flag. -/
def Obligations.AddImmediateWrapsWithoutFlag : Prop :=
  ∀ (x : RegNo) (kk : Byte) (s : State),
    DecodesAs (0x7000 + 0x100 * x.toNat + kk.toNat) (.addVxKk x kk) ∧
    Completes (exec (.addVxKk x kk) s) fun t =>
      (t.getV x).toNat = ((s.getV x).toNat + kk.toNat) % 256 ∧ Frame { regs := [x] } s t

/-- R113, R114, R115: 8xy1, 8xy2, 8xy3, bit by bit; that they write no flag is the spec's inference from DOC00's rows. -/
def Obligations.LogicWorksBitByBit : Prop :=
  ∀ (x y : RegNo) (s : State),
    DecodesAs (0x8001 + 0x100 * x.toNat + 0x10 * y.toNat) (.or x y) ∧
    DecodesAs (0x8002 + 0x100 * x.toNat + 0x10 * y.toNat) (.and x y) ∧
    DecodesAs (0x8003 + 0x100 * x.toNat + 0x10 * y.toNat) (.xor x y) ∧
    (Completes (exec (.or x y) s) fun t =>
      (∀ j, (t.getV x).getLsbD j = ((s.getV x).getLsbD j || (s.getV y).getLsbD j)) ∧ Frame { regs := [x] } s t) ∧
    (Completes (exec (.and x y) s) fun t =>
      (∀ j, (t.getV x).getLsbD j = ((s.getV x).getLsbD j && (s.getV y).getLsbD j)) ∧ Frame { regs := [x] } s t) ∧
    (Completes (exec (.xor x y) s) fun t =>
      (∀ j, (t.getV x).getLsbD j = ((s.getV x).getLsbD j != (s.getV y).getLsbD j)) ∧ Frame { regs := [x] } s t)

/-- R116: 8xy4. With `x = 0xF` the sum overwrites the carry (the spec's decision D3, log 9). -/
def Obligations.AddRegistersSetsCarry : Prop :=
  ∀ (x y : RegNo) (s : State),
    DecodesAs (0x8004 + 0x100 * x.toNat + 0x10 * y.toNat) (.addVxVy x y) ∧
    Completes (exec (.addVxVy x y) s) fun t =>
      (t.getV x).toNat = ((s.getV x).toNat + (s.getV y).toNat) % 256 ∧
      (x ≠ 0xF → (t.getV 0xF).toNat = if 255 < (s.getV x).toNat + (s.getV y).toNat then 1 else 0) ∧
      Frame { regs := [x, 0xF] } s t

/-- R117: 8xy5, with the four cases of `x` and `y` being 0xF (those with 0xF are the spec's decision D3, log 9). -/
def Obligations.SubtractSetsGreaterFlag : Prop :=
  ∀ (x y : RegNo) (a b f : Nat) (s : State),
    (s.getV x).toNat = a → (s.getV y).toNat = b → f = (if b < a then 1 else 0) →
    DecodesAs (0x8005 + 0x100 * x.toNat + 0x10 * y.toNat) (.sub x y) ∧
    Completes (exec (.sub x y) s) fun t =>
      (x ≠ 0xF → y ≠ 0xF → (t.getV x).toNat = (a + 256 - b) % 256 ∧ (t.getV 0xF).toNat = f) ∧
      (x = 0xF → y ≠ 0xF → (t.getV 0xF).toNat = (f + 256 - b) % 256) ∧
      (x ≠ 0xF → y = 0xF → (t.getV x).toNat = (a + 256 - f) % 256 ∧ (t.getV 0xF).toNat = f) ∧
      (x = 0xF → y = 0xF → (t.getV 0xF).toNat = 0) ∧
      Frame { regs := [x, 0xF] } s t

/-- R119: 8xy7, with the four cases of `x` and `y` being 0xF (those with 0xF are the spec's decision D3, log 9). -/
def Obligations.ReverseSubtractSetsGreaterFlag : Prop :=
  ∀ (x y : RegNo) (a b f : Nat) (s : State),
    (s.getV x).toNat = a → (s.getV y).toNat = b → f = (if a < b then 1 else 0) →
    DecodesAs (0x8007 + 0x100 * x.toNat + 0x10 * y.toNat) (.subn x y) ∧
    Completes (exec (.subn x y) s) fun t =>
      (x ≠ 0xF → y ≠ 0xF → (t.getV x).toNat = (b + 256 - a) % 256 ∧ (t.getV 0xF).toNat = f) ∧
      (x = 0xF → y ≠ 0xF → (t.getV 0xF).toNat = (b + 256 - f) % 256) ∧
      (x ≠ 0xF → y = 0xF → (t.getV x).toNat = (f + 256 - a) % 256 ∧ (t.getV 0xF).toNat = f) ∧
      (x = 0xF → y = 0xF → (t.getV 0xF).toNat = 0) ∧
      Frame { regs := [x, 0xF] } s t

/-- R118, R120: 8xy6 and 8xyE shift `V[x]` in place by one bit, whatever `y` is (the cases of `x = 0xF` are the spec's decision D3, log 9). -/
def Obligations.ShiftsMoveOneBitIntoTheFlag : Prop :=
  ∀ (x y : RegNo) (a : Nat) (s : State), (s.getV x).toNat = a →
    DecodesAs (0x8006 + 0x100 * x.toNat + 0x10 * y.toNat) (.shr x y) ∧
    DecodesAs (0x800E + 0x100 * x.toNat + 0x10 * y.toNat) (.shl x y) ∧
    (Completes (exec (.shr x y) s) fun t =>
      (x ≠ 0xF → (t.getV x).toNat = a / 2 ∧ (t.getV 0xF).toNat = a % 2) ∧
      (x = 0xF → (t.getV 0xF).toNat = 0) ∧ Frame { regs := [x, 0xF] } s t) ∧
    (Completes (exec (.shl x y) s) fun t =>
      (x ≠ 0xF → (t.getV x).toNat = a * 2 % 256 ∧ (t.getV 0xF).toNat = a / 128) ∧
      (x = 0xF → (t.getV 0xF).toNat = a / 128 * 2) ∧ Frame { regs := [x, 0xF] } s t)

/-- R121: Cxkk masks one sample of the random input, which is a sample the environment has written down, or else the free value
(log 5: that form is the model's; the statement holds for every value of either). -/
def Obligations.RandomByteIsMasked : Prop :=
  ∀ (x : RegNo) (kk : Byte) (s : State),
    DecodesAs (0xC000 + 0x100 * x.toNat + kk.toNat) (.rnd x kk) ∧
    Completes (exec (.rnd x kk) s) fun t =>
      (∀ (r : Byte) (rest : List Byte), s.rndInput = r :: rest →
        t.getV x = r &&& kk ∧ t.rndInput = rest ∧ t.rndDrawn = s.rndDrawn) ∧
      (s.rndInput = [] →
        t.getV x = Config.rndSample s.rndDrawn &&& kk ∧ t.rndInput = [] ∧ t.rndDrawn = s.rndDrawn + 1) ∧
      (∀ j, kk.getLsbD j = false → (t.getV x).getLsbD j = false) ∧
      Frame { regs := [x], random := true } s t

/-! Index register and memory (43_index_memory.md) -/

/-- R130, R132: Annn and Fx29. -/
def Obligations.IndexIsLoaded : Prop :=
  ∀ (nnn : Addr12) (x : RegNo) (s : State),
    DecodesAs (0xA000 + nnn.toNat) (.ldINnn nnn) ∧ DecodesAs (0xF029 + 0x100 * x.toNat) (.ldFVx x) ∧
    (Completes (exec (.ldINnn nnn) s) fun t => t.I.toNat = nnn.toNat ∧ Frame { index := true } s t) ∧
    (Completes (exec (.ldFVx x) s) fun t => t.I.toNat = (s.getV x).toNat * 5 ∧ Frame { index := true } s t)

/-- R131: Fx1E adds to the index and wraps at 16 bits, with no flag (the spec's decision D7, log 9). -/
def Obligations.AddToIndexWraps : Prop :=
  ∀ (x : RegNo) (s : State),
    DecodesAs (0xF01E + 0x100 * x.toNat) (.addIVx x) ∧
    Completes (exec (.addIVx x) s) fun t =>
      t.I.toNat = (s.I.toNat + (s.getV x).toNat) % 65536 ∧ Frame { index := true } s t

/-- R133: Fx33. That each address selects its cell modulo 4096, so that the stores complete in every state, is the spec's decision D5 (R31, log 9); that `I` is unchanged
is the spec's own inference (R136). -/
def Obligations.DecimalDigitsAreStored : Prop :=
  ∀ (x : RegNo) (s : State),
    DecodesAs (0xF033 + 0x100 * x.toNat) (.ldBVx x) ∧
    Completes (exec (.ldBVx x) s) fun t =>
      (t.readByte s.I).toNat = (s.getV x).toNat / 100 ∧
      (t.readByte (s.I + 1)).toNat = (s.getV x).toNat / 10 % 10 ∧
      (t.readByte (s.I + 2)).toNat = (s.getV x).toNat % 10 ∧
      Frame { cells := (List.range 3).map (fun r => cellOf (s.effAddr r)) } s t

/-- R134: Fx55 stores `V[0]` .. `V[x]` and changes no other cell. The wrap of addresses modulo 4096 is the spec's decision D5 (R31, log 9); that `I` is unchanged is the spec's
own inference (R136). -/
def Obligations.RegistersAreStoredInOrder : Prop :=
  ∀ (x : RegNo) (s : State),
    DecodesAs (0xF055 + 0x100 * x.toNat) (.ldMemVx x) ∧
    Completes (exec (.ldMemVx x) s) fun t =>
      (∀ r : Nat, r ≤ x.toNat → t.readByte (s.I + BitVec.ofNat 16 r) = s.getV (BitVec.ofNat 4 r)) ∧
      Frame { cells := (List.range (x.toNat + 1)).map (fun r => cellOf (s.effAddr r)) } s t

/-- R135: Fx65 loads `V[0]` .. `V[x]` and changes no other register. The wrap of addresses modulo 4096 is the spec's decision D5 (R31, log 9); that `I` is unchanged is the spec's
own inference (R136). -/
def Obligations.RegistersAreLoadedInOrder : Prop :=
  ∀ (x : RegNo) (s : State),
    DecodesAs (0xF065 + 0x100 * x.toNat) (.ldVxMem x) ∧
    Completes (exec (.ldVxMem x) s) fun t =>
      (∀ r : Nat, r ≤ x.toNat → t.getV (BitVec.ofNat 4 r) = s.readByte (s.I + BitVec.ofNat 16 r)) ∧
      (∀ q : RegNo, x.toNat < q.toNat → t.getV q = s.getV q) ∧
      Frame { regs := destRegs (.ldVxMem x) } s t

/-- R134, R135: what Fx55 stored, Fx65 at the same index loads back, whatever the registers hold by then. Addresses select
cells modulo 4096 (the spec's decision D5, log 9). -/
def Obligations.StoredRegistersLoadBack : Prop :=
  ∀ (x : RegNo) (s t u : State), exec (.ldMemVx x) s = .next t →
    u.I = t.I → (∀ a : Word, u.readByte a = t.readByte a) →
    Completes (exec (.ldVxMem x) u) fun w => ∀ q : RegNo, q.toNat ≤ x.toNat → w.getV q = s.getV q

/-- R41, R35: two bytes that Fx55 stored are the word the next fetch at their address reads. Addresses select cells modulo 4096 (the spec's decision D5, log 9). -/
def Obligations.StoreIsSeenByTheNextFetch : Prop :=
  ∀ (x : RegNo) (r : Nat) (s t : State), r < x.toNat → s.pc = s.I + BitVec.ofNat 16 r →
    exec (.ldMemVx x) s = .next t →
    t.fetchWord.toNat = 256 * (s.getV (BitVec.ofNat 4 r)).toNat + (s.getV (BitVec.ofNat 4 (r + 1))).toNat

/-- R31, R32, R35: every address selects the cell with its number modulo 4096 (the spec's decision D5, log 9), a write changes that cell alone, and the instruction word is the two cells at `pc` and
`pc + 1`, high byte first. -/
def Obligations.AddressesSelectCellsModulo4096 : Prop :=
  ∀ (a : Word) (v : Byte) (s : State),
    s.readByte a = s.readCell (a.toNat % 4096) ∧
    (∀ c : Nat, (s.writeByte a v).readCell c = if c = a.toNat % 4096 then v else s.readCell c) ∧
    s.writeByte a v = { s with mem := (s.writeByte a v).mem } ∧
    s.fetchWord.toNat =
      256 * (s.readCell (s.pc.toNat % 4096)).toNat + (s.readCell ((s.pc.toNat + 1) % 4096)).toNat

/-! Display (44_display.md) -/

/-- R151, R152: 00E0; that `V[0xF]` is unchanged is the spec's own inference from the row. -/
def Obligations.ClearTurnsEveryCellOff : Prop :=
  ∀ s : State,
    DecodesAs 0x00E0 .cls ∧
    Completes (exec .cls s) fun t => (∀ px py, t.fbRead px py = false) ∧ Frame { frameBuffer := true } s t

/-- R150, R155: the toggle flips one cell, wraps by true remainders (the spec's decision D8, log 9), and says whether the cell went on; twice is nothing. -/
def Obligations.ToggleFlipsOneWrappedCell : Prop :=
  ∀ (x y : Nat) (s : State),
    (s.togglePixel x y).1 = (!s.fbRead ⟨x % 128, Nat.mod_lt x (by decide)⟩ ⟨y % 64, Nat.mod_lt y (by decide)⟩) ∧
    (∀ (px : Fin 128) (py : Fin 64), (s.togglePixel x y).2.fbRead px py =
      if px.val = x % 128 ∧ py.val = y % 64 then !s.fbRead px py else s.fbRead px py) ∧
    ((s.togglePixel x y).2.togglePixel x y).2 = s

/-- R153, R154: Dxyn as a closed form. A cell is flipped exactly when the sprite covers it, and the flag says whether a covered cell was off. Rests on the spec's
decisions D5 (sprite rows are read modulo 4096), D8 (remainders), D9 (bit order) and D10 (a coordinate in 0xF reads 0), log 9. -/
def Obligations.DrawFlipsTheCoveredCells : Prop :=
  ∀ (x y : RegNo) (n : Nibble) (s : State),
    DecodesAs (0xD000 + 0x100 * x.toNat + 0x10 * y.toNat + n.toNat) (.drw x y n) ∧
    Completes (exec (.drw x y n) s) fun t =>
      (∀ px py, covers s (origin s x) (origin s y) n.toNat px.val py.val → t.fbRead px py = !s.fbRead px py) ∧
      (∀ px py, ¬ covers s (origin s x) (origin s y) n.toNat px.val py.val → t.fbRead px py = s.fbRead px py) ∧
      ((∃ px py, covers s (origin s x) (origin s y) n.toNat px.val py.val ∧ s.fbRead px py = false) →
        t.getV 0xF = 1) ∧
      ((∀ px py, covers s (origin s x) (origin s y) n.toNat px.val py.val → s.fbRead px py = true) →
        t.getV 0xF = 0) ∧
      Frame { regs := [0xF], frameBuffer := true } s t

/-- R153 (i) (DOC00 §8): the same draw twice restores the frame buffer, and the second flag is 1 exactly when some covered cell was on before.
For `x` or `y` = 0xF it rests on the spec's decision D10 (the origin is read after the flag is cleared, so both draws have it at 0); which cells are covered rests on D5, D8
and D9 (log 9). -/
def Obligations.DrawTwiceRestoresTheFrameBuffer : Prop :=
  ∀ (x y : RegNo) (n : Nibble) (s : State),
    Completes (exec (.drw x y n) s) fun t =>
      Completes (exec (.drw x y n) t) fun u =>
        (∀ px py, u.fbRead px py = s.fbRead px py) ∧
        (u.getV 0xF = 1 ↔
          ∃ px py, covers s (origin s x) (origin s y) n.toNat px.val py.val ∧ s.fbRead px py = true)

/-! Timers and keys (45_timers_keys.md) -/

/-- R172, R173: Fx15 and Fx18; `tone` is not written. -/
def Obligations.TimersAreSetFromRegisters : Prop :=
  ∀ (x : RegNo) (s : State),
    DecodesAs (0xF015 + 0x100 * x.toNat) (.ldDtVx x) ∧ DecodesAs (0xF018 + 0x100 * x.toNat) (.ldStVx x) ∧
    (Completes (exec (.ldDtVx x) s) fun t => t.DT = s.getV x ∧ Frame { delay := true } s t) ∧
    (Completes (exec (.ldStVx x) s) fun t => t.ST = s.getV x ∧ Frame { sound := true } s t)

/-- R170: each counter goes down by one per tick and never below 0. -/
def Obligations.TimersCountDownToZero : Prop :=
  ∀ (k : Nat) (s : State),
    (State.timerTick^[k] s).DT.toNat = s.DT.toNat - k ∧ (State.timerTick^[k] s).ST.toNat = s.ST.toNat - k ∧
    State.timerTick^[k] s = { s with DT := (State.timerTick^[k] s).DT, ST := (State.timerTick^[k] s).ST }

/-- R176: Fx0A pauses the core and writes no register. -/
def Obligations.WaitForKeyPauses : Prop :=
  ∀ (x : RegNo) (s : State),
    DecodesAs (0xF00A + 0x100 * x.toNat) (.ldVxK x) ∧
    Completes (exec (.ldVxK x) s) fun t => t.run = .paused x ∧ Frame { runState := true } s t

/-! The cycle (40_cycle_fsm.md) -/

/-- R71, R72, R74 (that one step is one slot is log 4): a step of a Running core with no host operation at hand fetches the two bytes at `pc`, advances `pc` by 2 and executes the instruction they decode
to; around it the slot is opened and closed. The addresses of the fetch and the wrap of `pc` are the spec's decisions D5, D24 and D4 (log 9). -/
def Obligations.StepRunsTheDecodedInstruction : Prop :=
  ∀ (s : State) (i : Instr), s.run = .running → s.pendingOp = none →
    decode [s.readByte s.pc, s.readByte (s.pc + 1)] = .ok (i, []) → i.wellFormed = true →
    step s = onNext State.closeSlot (exec i { s.openSlot with pc := s.pc + 2 })

/-- R75, R78, in the model's own terms (log 3, 4, 7, 11): what the slot adds around an instruction. Opening drops the last report, and at slot 0 takes the host's tick and ends the time for a load.
Closing moves to the next slot, and after the tenth one counts the timers down and then sets the tone. -/
def Obligations.SlotOpensAndCloses : Prop :=
  ∀ s : State,
    (s.slot ≠ 0 → s.openSlot = { s with report := none }) ∧
    (s.slot = 0 → s.openSlot = { s with report := none, hostQueue := takeTick s.hostQueue, loadAllowed := false }) ∧
    (s.slot.val < 9 → s.closeSlot.slot.val = s.slot.val + 1 ∧ s.closeSlot = { s with slot := s.closeSlot.slot }) ∧
    (s.slot.val = 9 → s.closeSlot.slot.val = 0 ∧ s.closeSlot.DT.toNat = s.DT.toNat - 1 ∧
      s.closeSlot.ST.toNat = s.ST.toNat - 1 ∧ s.closeSlot.tone = decide (1 < s.ST.toNat) ∧
      s.closeSlot = { s with slot := s.closeSlot.slot, DT := s.closeSlot.DT, ST := s.closeSlot.ST,
                             tone := s.closeSlot.tone })

/-- R73: an unrecognised word is reported with its address (the spec's decision D18; the port is log 7), and only `pc` advances. Which words these
are, the wrap of `pc` and the addresses of the fetch are decisions D17, D4 and D5 (log 9). -/
def Obligations.UnrecognisedWordIsReportedAndSkipped : Prop :=
  ∀ (s : State) (op : Word), s.run = .running → s.pendingOp = none →
    op.toNat = 256 * (s.readByte s.pc).toNat + (s.readByte (s.pc + 1)).toNat → (∀ i, decodeWord op ≠ .ok i) →
    instructionStep s = .next { s with pc := s.pc + 2, report := some (.badOpcode op s.pc) } ∧
    step s = .next (State.closeSlot { s.openSlot with pc := s.pc + 2, report := some (.badOpcode op s.pc) })

/-- R74, R76: a tick-group entered Paused changes only the timers and the tone. The last three fields are the model's own (log 3, 7, 11). -/
def Obligations.PausedTickGroupOnlyCountsTimers : Prop :=
  ∀ (x : RegNo) (s : State), s.run = .paused x →
    Completes (tickGroup s) fun t =>
      t.DT.toNat = s.DT.toNat - 1 ∧ t.ST.toNat = s.ST.toNat - 1 ∧ t.tone = decide (1 < s.ST.toNat) ∧
      t = { s with DT := t.DT, ST := t.ST, tone := t.tone, report := none,
                   hostQueue := takeTick s.hostQueue, loadAllowed := false }

/-- R75 (log 3, 4): from a boundary where no other host operation waits, ten steps of the machine are one tick-group: ten slots, the timer tick, the tone. -/
def Obligations.TenStepsAreOneTickGroup : Prop :=
  ∀ s : State, s.slot = 0 → s.pendingOp = none → Host.Core.run Sys2Proof.core 10 s = tickGroup s

/-- R22, R70 (log 3): inside a tick-group the host does nothing: a step there neither reads nor changes what the host has queued, and the key levels stay. -/
def Obligations.HostActsOnlyBetweenTickGroups : Prop :=
  ∀ (q : List HostEvent) (s : State), s.slot ≠ 0 →
    step { s with hostQueue := q } = onNext (fun t => { t with hostQueue := q }) (step s) ∧
    ∀ t, step s = .next t → t.keys = s.keys ∧ t.hostQueue = s.hostQueue

/-- R18, R74 (the host's queue is log 3): the only ways into and out of Paused. -/
def Obligations.PausedIsEnteredAndLeftOnlyAsStated : Prop :=
  ∀ s t : State, step s = .next t →
    (∀ x, s.run = .running → t.run = .paused x → decodeWord s.fetchWord = .ok (.ldVxK x)) ∧
    (∀ x, s.run = .paused x → t.run = .running →
      s.slot = 0 ∧ ∃ q, (∃ k, s.hostQueue = .op (.keyPress k) :: q) ∨ s.hostQueue = .op .reset :: q)

/-- R77 (the host's queue is log 3; dropping a press while Running is the spec's decision D21): a key press ends the wait of a Paused core and is dropped by a Running one. -/
def Obligations.KeyPressEndsTheWait : Prop :=
  ∀ (k : Nibble) (q : List HostEvent) (s : State), s.slot = 0 → s.hostQueue = .op (.keyPress k) :: q →
    (∀ x, s.run = .paused x → Completes (step s) fun t =>
      (t.getV x).toNat = k.toNat ∧ (∀ r, r ≠ x → t.getV r = s.getV r) ∧
      t = { s with V := t.V, run := .running, hostQueue := q, report := none }) ∧
    (s.run = .running → step s = .next { s with hostQueue := q, report := none })

/-! Memory load and reset (20_memory.md R43, 70_reset_and_hazards.md) -/

/-- R43: a load that fits is copied to 0x200 upward; a longer one changes no cell and is reported. The host's queue is log 3, `loadAllowed` log 11, the content of the report log
7; refusing a long load is the spec's decision D15, the cell an address selects decision D5 (log 9). -/
def Obligations.LoadCopiesOrIsRefused : Prop :=
  ∀ (bytes : List Byte) (q : List HostEvent) (s : State), s.slot = 0 → s.hostQueue = .op (.load bytes) :: q →
    s.loadAllowed = true →
    (bytes.length + 0x200 ≤ 4096 → Completes (step s) fun t =>
      (∀ (i : Nat) (h : i < bytes.length), t.readByte (BitVec.ofNat 16 (0x200 + i)) = bytes[i]) ∧
      (∀ a : Word, (cellOf a < 0x200 ∨ 0x200 + bytes.length ≤ cellOf a) → t.readByte a = s.readByte a) ∧
      t = { s with mem := t.mem, hostQueue := q, loadAllowed := false, report := none }) ∧
    (4096 < bytes.length + 0x200 →
      step s = .next { s with hostQueue := q, report := some (.loadRefused bytes.length) })

/-- R212, decision D26 (log 11): a load anywhere else is refused. -/
def Obligations.LoadElsewhereIsNotAdmitted : Prop :=
  ∀ (bytes : List Byte) (q : List HostEvent) (s : State), s.slot = 0 → s.hostQueue = .op (.load bytes) :: q →
    s.loadAllowed = false → step s = .refused .loadNotAdmitted

/-- R210: reset, from every state, for every `FONT` (the host's queue is log 3). The fill value, `tone` and the cell an address selects are the spec's decisions D13, D25
and D5 (log 9); the inputs are not state of the core and stay (log 12). -/
def Obligations.ResetSetsEveryPieceOfState : Prop :=
  ∀ (q : List HostEvent) (s : State), s.slot = 0 → s.hostQueue = .op .reset :: q →
    Completes (step s) fun t =>
      (∀ r, t.getV r = 0) ∧ t.I = 0 ∧ t.pc = 0x200 ∧ t.stack = [] ∧ t.DT = 0 ∧ t.ST = 0 ∧
      (∀ px py, t.fbRead px py = false) ∧
      (∀ a : Word, ∀ h : cellOf a < 80, t.readByte a = s.font[cellOf a]) ∧
      (∀ a : Word, 80 ≤ cellOf a → t.readByte a = 0) ∧
      t.run = .running ∧ t.tone = false ∧
      t.font = s.font ∧ t.keys = s.keys ∧ t.hostQueue = q ∧ t.rndInput = s.rndInput ∧ t.rndDrawn = s.rndDrawn

/-- R210, R211: the state the machine starts in (`FONT` is the state's own parameter). The fill value, `tone`, the reset at power-on and the cell an address selects are
the spec's decisions D13, D25, D16 and D5 (log 9). -/
def Obligations.ResetStateHasTheStatedValues : Prop :=
  (∀ r, State.reset.getV r = 0) ∧ State.reset.I = 0 ∧ State.reset.pc = 0x200 ∧ State.reset.stack = [] ∧
  State.reset.DT = 0 ∧ State.reset.ST = 0 ∧ (∀ px py, State.reset.fbRead px py = false) ∧
  (∀ a : Word, ∀ h : cellOf a < 80, State.reset.readByte a = State.reset.font[cellOf a]) ∧
  (∀ a : Word, 80 ≤ cellOf a → State.reset.readByte a = 0) ∧
  State.reset.run = .running ∧ State.reset.tone = false

/-! Whole-machine rules and invariants -/

/-- R10, R37: an instruction changes no general register and no memory cell but its own destinations (cells modulo 4096: the spec's
decision D5, log 9). -/
def Obligations.OnlyDestinationsChange : Prop :=
  ∀ (i : Instr) (s t : State), exec i s = .next t →
    (∀ r : RegNo, r ∉ destRegs i → t.getV r = s.getV r) ∧
    (∀ a : Word, cellOf a ∉ destCells i s → t.readByte a = s.readByte a)

/-- R12, R13, R14: `I`, `pc` and the stack have no writers but the listed ones. -/
def Obligations.AddressRegistersHaveOnlyTheirWriters : Prop :=
  ∀ (i : Instr) (s t : State), exec i s = .next t →
    (writesIndex i = false → t.I = s.I) ∧ (writesPc i = false → t.pc = s.pc) ∧
    (usesStack i = false → t.stack = s.stack)

/-- R15, R16, R19: the timers, the frame buffer and the tone have no writers but the listed ones. -/
def Obligations.TimersAndDisplayHaveOnlyTheirWriters : Prop :=
  ∀ (i : Instr) (s t : State), exec i s = .next t →
    (writesFrameBuffer i = false → t.FB = s.FB) ∧ ((∀ x, i ≠ .ldDtVx x) → t.DT = s.DT) ∧
    ((∀ x, i ≠ .ldStVx x) → t.ST = s.ST) ∧ SameSurroundings s t

/-- R191: every instruction has a next state in every state, but for 00EE on an empty stack and 2nnn on a full one (the spec's decision D6, log 8). -/
def Obligations.OnlyStackLimitsStopAnInstruction : Prop :=
  ∀ (i : Instr) (s : State),
    (∃ t, exec i s = .next t) ∨
    (i = .ret ∧ s.stack = [] ∧ exec i s = .fault (.stackUnderflow (s.pc - 2))) ∨
    (∃ nnn, i = .call nnn ∧ 16 ≤ s.stack.length ∧ exec i s = .fault (.stackOverflow (s.pc - 2)))

/-- R80: only Ex9E and ExA1 depend on the key levels. -/
def Obligations.OnlyKeySkipsDependOnKeys : Prop :=
  ∀ (i : Instr) (levels : BitVec 16) (s : State), (∀ x, i ≠ .skp x) → (∀ x, i ≠ .sknp x) →
    exec i { s with keys := levels } = onNext (fun t => { t with keys := levels }) (exec i s)

/-- R80: only Cxkk depends on the random input. -/
def Obligations.OnlyRandomDependsOnTheRandomInput : Prop :=
  ∀ (i : Instr) (samples : List Byte) (drawn : Nat) (s : State), (∀ x kk, i ≠ .rnd x kk) →
    exec i { s with rndInput := samples, rndDrawn := drawn } =
      onNext (fun t => { t with rndInput := samples, rndDrawn := drawn }) (exec i s)

/-- The invariant of `Safety.Inv` (R14, R19): every step keeps it. The canonical form of memory is log 15, its cell numbers and fill value the spec's decisions D5 and D13, the
stack's depth D6 (log 8), `tone` after reset D25 (log 9). -/
def Obligations.StepKeepsTheInvariant : Prop :=
  ∀ s t : State, Inv s → step s = .next t → Inv t

/-- The invariant holds at reset (`tone` after reset is the spec's decision D25, log 9; the canonical form of memory is log 15). -/
def Obligations.InvariantHoldsAtReset : Prop := Inv State.reset

/-- R212 (log 11): where a load is admitted the core is as reset left it; every step keeps that, and it holds at reset. -/
def Obligations.LoadMeetsOnlyTheResetState : Prop :=
  LoadInv State.reset ∧ ∀ s t : State, LoadInv s → step s = .next t → LoadInv t

/-- R3, R34 (log 6): the parameter `FONT` is the same in every state of a run. -/
def Obligations.FontNeverChanges : Prop :=
  ∀ s t : State, step s = .next t → t.font = s.font

/-- R190, R191, R212: a step never refuses an instruction; it refuses only a load that is not admitted. -/
def Obligations.StepRefusesOnlyMisplacedLoads : Prop :=
  ∀ (s : State) (r : Refusal), step s = .refused r →
    r = .loadNotAdmitted ∧ s.slot = 0 ∧ s.loadAllowed = false ∧
      ∃ bytes q, s.hostQueue = .op (.load bytes) :: q
end

