-- ==== Sys2Proof/Laws/State.lean ====
section
/-! SUPPORT. What each update of the state does to each field: one lemma per field and update, so that no later proof unfolds a record update.
An untouched field keeps its value; a touched one has the value written. -/

namespace Sys2Proof.Machine

variable (s : State)

/-! `State.setV` -/

@[simp] theorem State.setV_V (x : RegNo) (v : Byte) : (s.setV x v).V = s.V.set x.toNat v x.isLt := rfl
@[simp] theorem State.setV_I (x : RegNo) (v : Byte) : (s.setV x v).I = s.I := rfl
@[simp] theorem State.setV_pc (x : RegNo) (v : Byte) : (s.setV x v).pc = s.pc := rfl
@[simp] theorem State.setV_stack (x : RegNo) (v : Byte) : (s.setV x v).stack = s.stack := rfl
@[simp] theorem State.setV_DT (x : RegNo) (v : Byte) : (s.setV x v).DT = s.DT := rfl
@[simp] theorem State.setV_ST (x : RegNo) (v : Byte) : (s.setV x v).ST = s.ST := rfl
@[simp] theorem State.setV_FB (x : RegNo) (v : Byte) : (s.setV x v).FB = s.FB := rfl
@[simp] theorem State.setV_mem (x : RegNo) (v : Byte) : (s.setV x v).mem = s.mem := rfl
@[simp] theorem State.setV_run (x : RegNo) (v : Byte) : (s.setV x v).run = s.run := rfl
@[simp] theorem State.setV_tone (x : RegNo) (v : Byte) : (s.setV x v).tone = s.tone := rfl
@[simp] theorem State.setV_font (x : RegNo) (v : Byte) : (s.setV x v).font = s.font := rfl
@[simp] theorem State.setV_keys (x : RegNo) (v : Byte) : (s.setV x v).keys = s.keys := rfl
@[simp] theorem State.setV_hostQueue (x : RegNo) (v : Byte) : (s.setV x v).hostQueue = s.hostQueue := rfl
@[simp] theorem State.setV_slot (x : RegNo) (v : Byte) : (s.setV x v).slot = s.slot := rfl
@[simp] theorem State.setV_loadAllowed (x : RegNo) (v : Byte) : (s.setV x v).loadAllowed = s.loadAllowed := rfl
@[simp] theorem State.setV_rndInput (x : RegNo) (v : Byte) : (s.setV x v).rndInput = s.rndInput := rfl
@[simp] theorem State.setV_rndDrawn (x : RegNo) (v : Byte) : (s.setV x v).rndDrawn = s.rndDrawn := rfl
@[simp] theorem State.setV_report (x : RegNo) (v : Byte) : (s.setV x v).report = s.report := rfl

/-! `State.setFlag` -/

@[simp] theorem State.setFlag_V (f : Byte) : (s.setFlag f).V = s.V.set regF.toNat f regF.isLt := rfl
@[simp] theorem State.setFlag_I (f : Byte) : (s.setFlag f).I = s.I := rfl
@[simp] theorem State.setFlag_pc (f : Byte) : (s.setFlag f).pc = s.pc := rfl
@[simp] theorem State.setFlag_stack (f : Byte) : (s.setFlag f).stack = s.stack := rfl
@[simp] theorem State.setFlag_DT (f : Byte) : (s.setFlag f).DT = s.DT := rfl
@[simp] theorem State.setFlag_ST (f : Byte) : (s.setFlag f).ST = s.ST := rfl
@[simp] theorem State.setFlag_FB (f : Byte) : (s.setFlag f).FB = s.FB := rfl
@[simp] theorem State.setFlag_mem (f : Byte) : (s.setFlag f).mem = s.mem := rfl
@[simp] theorem State.setFlag_run (f : Byte) : (s.setFlag f).run = s.run := rfl
@[simp] theorem State.setFlag_tone (f : Byte) : (s.setFlag f).tone = s.tone := rfl
@[simp] theorem State.setFlag_font (f : Byte) : (s.setFlag f).font = s.font := rfl
@[simp] theorem State.setFlag_keys (f : Byte) : (s.setFlag f).keys = s.keys := rfl
@[simp] theorem State.setFlag_hostQueue (f : Byte) : (s.setFlag f).hostQueue = s.hostQueue := rfl
@[simp] theorem State.setFlag_slot (f : Byte) : (s.setFlag f).slot = s.slot := rfl
@[simp] theorem State.setFlag_loadAllowed (f : Byte) : (s.setFlag f).loadAllowed = s.loadAllowed := rfl
@[simp] theorem State.setFlag_rndInput (f : Byte) : (s.setFlag f).rndInput = s.rndInput := rfl
@[simp] theorem State.setFlag_rndDrawn (f : Byte) : (s.setFlag f).rndDrawn = s.rndDrawn := rfl
@[simp] theorem State.setFlag_report (f : Byte) : (s.setFlag f).report = s.report := rfl

/-! `State.writeCell` -/

@[simp] theorem State.writeCell_V (a : Nat) (v : Byte) : (s.writeCell a v).V = s.V := rfl
@[simp] theorem State.writeCell_I (a : Nat) (v : Byte) : (s.writeCell a v).I = s.I := rfl
@[simp] theorem State.writeCell_pc (a : Nat) (v : Byte) : (s.writeCell a v).pc = s.pc := rfl
@[simp] theorem State.writeCell_stack (a : Nat) (v : Byte) : (s.writeCell a v).stack = s.stack := rfl
@[simp] theorem State.writeCell_DT (a : Nat) (v : Byte) : (s.writeCell a v).DT = s.DT := rfl
@[simp] theorem State.writeCell_ST (a : Nat) (v : Byte) : (s.writeCell a v).ST = s.ST := rfl
@[simp] theorem State.writeCell_FB (a : Nat) (v : Byte) : (s.writeCell a v).FB = s.FB := rfl
@[simp] theorem State.writeCell_mem (a : Nat) (v : Byte) : (s.writeCell a v).mem = Memory.store (unlisted s.font a) a v s.mem := rfl
@[simp] theorem State.writeCell_run (a : Nat) (v : Byte) : (s.writeCell a v).run = s.run := rfl
@[simp] theorem State.writeCell_tone (a : Nat) (v : Byte) : (s.writeCell a v).tone = s.tone := rfl
@[simp] theorem State.writeCell_font (a : Nat) (v : Byte) : (s.writeCell a v).font = s.font := rfl
@[simp] theorem State.writeCell_keys (a : Nat) (v : Byte) : (s.writeCell a v).keys = s.keys := rfl
@[simp] theorem State.writeCell_hostQueue (a : Nat) (v : Byte) : (s.writeCell a v).hostQueue = s.hostQueue := rfl
@[simp] theorem State.writeCell_slot (a : Nat) (v : Byte) : (s.writeCell a v).slot = s.slot := rfl
@[simp] theorem State.writeCell_loadAllowed (a : Nat) (v : Byte) : (s.writeCell a v).loadAllowed = s.loadAllowed := rfl
@[simp] theorem State.writeCell_rndInput (a : Nat) (v : Byte) : (s.writeCell a v).rndInput = s.rndInput := rfl
@[simp] theorem State.writeCell_rndDrawn (a : Nat) (v : Byte) : (s.writeCell a v).rndDrawn = s.rndDrawn := rfl
@[simp] theorem State.writeCell_report (a : Nat) (v : Byte) : (s.writeCell a v).report = s.report := rfl

/-! `State.writeByte` -/

@[simp] theorem State.writeByte_V (a : Word) (v : Byte) : (s.writeByte a v).V = s.V := rfl
@[simp] theorem State.writeByte_I (a : Word) (v : Byte) : (s.writeByte a v).I = s.I := rfl
@[simp] theorem State.writeByte_pc (a : Word) (v : Byte) : (s.writeByte a v).pc = s.pc := rfl
@[simp] theorem State.writeByte_stack (a : Word) (v : Byte) : (s.writeByte a v).stack = s.stack := rfl
@[simp] theorem State.writeByte_DT (a : Word) (v : Byte) : (s.writeByte a v).DT = s.DT := rfl
@[simp] theorem State.writeByte_ST (a : Word) (v : Byte) : (s.writeByte a v).ST = s.ST := rfl
@[simp] theorem State.writeByte_FB (a : Word) (v : Byte) : (s.writeByte a v).FB = s.FB := rfl
@[simp] theorem State.writeByte_mem (a : Word) (v : Byte) : (s.writeByte a v).mem = (s.writeCell (cellOf a) v).mem := rfl
@[simp] theorem State.writeByte_run (a : Word) (v : Byte) : (s.writeByte a v).run = s.run := rfl
@[simp] theorem State.writeByte_tone (a : Word) (v : Byte) : (s.writeByte a v).tone = s.tone := rfl
@[simp] theorem State.writeByte_font (a : Word) (v : Byte) : (s.writeByte a v).font = s.font := rfl
@[simp] theorem State.writeByte_keys (a : Word) (v : Byte) : (s.writeByte a v).keys = s.keys := rfl
@[simp] theorem State.writeByte_hostQueue (a : Word) (v : Byte) : (s.writeByte a v).hostQueue = s.hostQueue := rfl
@[simp] theorem State.writeByte_slot (a : Word) (v : Byte) : (s.writeByte a v).slot = s.slot := rfl
@[simp] theorem State.writeByte_loadAllowed (a : Word) (v : Byte) : (s.writeByte a v).loadAllowed = s.loadAllowed := rfl
@[simp] theorem State.writeByte_rndInput (a : Word) (v : Byte) : (s.writeByte a v).rndInput = s.rndInput := rfl
@[simp] theorem State.writeByte_rndDrawn (a : Word) (v : Byte) : (s.writeByte a v).rndDrawn = s.rndDrawn := rfl
@[simp] theorem State.writeByte_report (a : Word) (v : Byte) : (s.writeByte a v).report = s.report := rfl

/-! `State.jumpTo` -/

@[simp] theorem State.jumpTo_V (t : Word) : (s.jumpTo t).V = s.V := rfl
@[simp] theorem State.jumpTo_I (t : Word) : (s.jumpTo t).I = s.I := rfl
@[simp] theorem State.jumpTo_pc (t : Word) : (s.jumpTo t).pc = t := rfl
@[simp] theorem State.jumpTo_stack (t : Word) : (s.jumpTo t).stack = s.stack := rfl
@[simp] theorem State.jumpTo_DT (t : Word) : (s.jumpTo t).DT = s.DT := rfl
@[simp] theorem State.jumpTo_ST (t : Word) : (s.jumpTo t).ST = s.ST := rfl
@[simp] theorem State.jumpTo_FB (t : Word) : (s.jumpTo t).FB = s.FB := rfl
@[simp] theorem State.jumpTo_mem (t : Word) : (s.jumpTo t).mem = s.mem := rfl
@[simp] theorem State.jumpTo_run (t : Word) : (s.jumpTo t).run = s.run := rfl
@[simp] theorem State.jumpTo_tone (t : Word) : (s.jumpTo t).tone = s.tone := rfl
@[simp] theorem State.jumpTo_font (t : Word) : (s.jumpTo t).font = s.font := rfl
@[simp] theorem State.jumpTo_keys (t : Word) : (s.jumpTo t).keys = s.keys := rfl
@[simp] theorem State.jumpTo_hostQueue (t : Word) : (s.jumpTo t).hostQueue = s.hostQueue := rfl
@[simp] theorem State.jumpTo_slot (t : Word) : (s.jumpTo t).slot = s.slot := rfl
@[simp] theorem State.jumpTo_loadAllowed (t : Word) : (s.jumpTo t).loadAllowed = s.loadAllowed := rfl
@[simp] theorem State.jumpTo_rndInput (t : Word) : (s.jumpTo t).rndInput = s.rndInput := rfl
@[simp] theorem State.jumpTo_rndDrawn (t : Word) : (s.jumpTo t).rndDrawn = s.rndDrawn := rfl
@[simp] theorem State.jumpTo_report (t : Word) : (s.jumpTo t).report = s.report := rfl

/-! `State.advance` -/

@[simp] theorem State.advance_V : s.advance.V = s.V := rfl
@[simp] theorem State.advance_I : s.advance.I = s.I := rfl
@[simp] theorem State.advance_pc : s.advance.pc = s.pc + 2 := rfl
@[simp] theorem State.advance_stack : s.advance.stack = s.stack := rfl
@[simp] theorem State.advance_DT : s.advance.DT = s.DT := rfl
@[simp] theorem State.advance_ST : s.advance.ST = s.ST := rfl
@[simp] theorem State.advance_FB : s.advance.FB = s.FB := rfl
@[simp] theorem State.advance_mem : s.advance.mem = s.mem := rfl
@[simp] theorem State.advance_run : s.advance.run = s.run := rfl
@[simp] theorem State.advance_tone : s.advance.tone = s.tone := rfl
@[simp] theorem State.advance_font : s.advance.font = s.font := rfl
@[simp] theorem State.advance_keys : s.advance.keys = s.keys := rfl
@[simp] theorem State.advance_hostQueue : s.advance.hostQueue = s.hostQueue := rfl
@[simp] theorem State.advance_slot : s.advance.slot = s.slot := rfl
@[simp] theorem State.advance_loadAllowed : s.advance.loadAllowed = s.loadAllowed := rfl
@[simp] theorem State.advance_rndInput : s.advance.rndInput = s.rndInput := rfl
@[simp] theorem State.advance_rndDrawn : s.advance.rndDrawn = s.rndDrawn := rfl
@[simp] theorem State.advance_report : s.advance.report = s.report := rfl

/-! `State.skipIf` -/

@[simp] theorem State.skipIf_V (c : Bool) : (s.skipIf c).V = s.V := by cases c <;> rfl
@[simp] theorem State.skipIf_I (c : Bool) : (s.skipIf c).I = s.I := by cases c <;> rfl
@[simp] theorem State.skipIf_pc (c : Bool) : (s.skipIf c).pc = if c then s.pc + 2 else s.pc := by cases c <;> rfl
@[simp] theorem State.skipIf_stack (c : Bool) : (s.skipIf c).stack = s.stack := by cases c <;> rfl
@[simp] theorem State.skipIf_DT (c : Bool) : (s.skipIf c).DT = s.DT := by cases c <;> rfl
@[simp] theorem State.skipIf_ST (c : Bool) : (s.skipIf c).ST = s.ST := by cases c <;> rfl
@[simp] theorem State.skipIf_FB (c : Bool) : (s.skipIf c).FB = s.FB := by cases c <;> rfl
@[simp] theorem State.skipIf_mem (c : Bool) : (s.skipIf c).mem = s.mem := by cases c <;> rfl
@[simp] theorem State.skipIf_run (c : Bool) : (s.skipIf c).run = s.run := by cases c <;> rfl
@[simp] theorem State.skipIf_tone (c : Bool) : (s.skipIf c).tone = s.tone := by cases c <;> rfl
@[simp] theorem State.skipIf_font (c : Bool) : (s.skipIf c).font = s.font := by cases c <;> rfl
@[simp] theorem State.skipIf_keys (c : Bool) : (s.skipIf c).keys = s.keys := by cases c <;> rfl
@[simp] theorem State.skipIf_hostQueue (c : Bool) : (s.skipIf c).hostQueue = s.hostQueue := by cases c <;> rfl
@[simp] theorem State.skipIf_slot (c : Bool) : (s.skipIf c).slot = s.slot := by cases c <;> rfl
@[simp] theorem State.skipIf_loadAllowed (c : Bool) : (s.skipIf c).loadAllowed = s.loadAllowed := by cases c <;> rfl
@[simp] theorem State.skipIf_rndInput (c : Bool) : (s.skipIf c).rndInput = s.rndInput := by cases c <;> rfl
@[simp] theorem State.skipIf_rndDrawn (c : Bool) : (s.skipIf c).rndDrawn = s.rndDrawn := by cases c <;> rfl
@[simp] theorem State.skipIf_report (c : Bool) : (s.skipIf c).report = s.report := by cases c <;> rfl

/-! `State.setI` -/

@[simp] theorem State.setI_V (a : Word) : (s.setI a).V = s.V := rfl
@[simp] theorem State.setI_I (a : Word) : (s.setI a).I = a := rfl
@[simp] theorem State.setI_pc (a : Word) : (s.setI a).pc = s.pc := rfl
@[simp] theorem State.setI_stack (a : Word) : (s.setI a).stack = s.stack := rfl
@[simp] theorem State.setI_DT (a : Word) : (s.setI a).DT = s.DT := rfl
@[simp] theorem State.setI_ST (a : Word) : (s.setI a).ST = s.ST := rfl
@[simp] theorem State.setI_FB (a : Word) : (s.setI a).FB = s.FB := rfl
@[simp] theorem State.setI_mem (a : Word) : (s.setI a).mem = s.mem := rfl
@[simp] theorem State.setI_run (a : Word) : (s.setI a).run = s.run := rfl
@[simp] theorem State.setI_tone (a : Word) : (s.setI a).tone = s.tone := rfl
@[simp] theorem State.setI_font (a : Word) : (s.setI a).font = s.font := rfl
@[simp] theorem State.setI_keys (a : Word) : (s.setI a).keys = s.keys := rfl
@[simp] theorem State.setI_hostQueue (a : Word) : (s.setI a).hostQueue = s.hostQueue := rfl
@[simp] theorem State.setI_slot (a : Word) : (s.setI a).slot = s.slot := rfl
@[simp] theorem State.setI_loadAllowed (a : Word) : (s.setI a).loadAllowed = s.loadAllowed := rfl
@[simp] theorem State.setI_rndInput (a : Word) : (s.setI a).rndInput = s.rndInput := rfl
@[simp] theorem State.setI_rndDrawn (a : Word) : (s.setI a).rndDrawn = s.rndDrawn := rfl
@[simp] theorem State.setI_report (a : Word) : (s.setI a).report = s.report := rfl

/-! `State.flipPixel` -/

@[simp] theorem State.flipPixel_V (x y : Nat) : (s.flipPixel x y).V = s.V := rfl
@[simp] theorem State.flipPixel_I (x y : Nat) : (s.flipPixel x y).I = s.I := rfl
@[simp] theorem State.flipPixel_pc (x y : Nat) : (s.flipPixel x y).pc = s.pc := rfl
@[simp] theorem State.flipPixel_stack (x y : Nat) : (s.flipPixel x y).stack = s.stack := rfl
@[simp] theorem State.flipPixel_DT (x y : Nat) : (s.flipPixel x y).DT = s.DT := rfl
@[simp] theorem State.flipPixel_ST (x y : Nat) : (s.flipPixel x y).ST = s.ST := rfl
@[simp] theorem State.flipPixel_mem (x y : Nat) : (s.flipPixel x y).mem = s.mem := rfl
@[simp] theorem State.flipPixel_run (x y : Nat) : (s.flipPixel x y).run = s.run := rfl
@[simp] theorem State.flipPixel_tone (x y : Nat) : (s.flipPixel x y).tone = s.tone := rfl
@[simp] theorem State.flipPixel_font (x y : Nat) : (s.flipPixel x y).font = s.font := rfl
@[simp] theorem State.flipPixel_keys (x y : Nat) : (s.flipPixel x y).keys = s.keys := rfl
@[simp] theorem State.flipPixel_hostQueue (x y : Nat) : (s.flipPixel x y).hostQueue = s.hostQueue := rfl
@[simp] theorem State.flipPixel_slot (x y : Nat) : (s.flipPixel x y).slot = s.slot := rfl
@[simp] theorem State.flipPixel_loadAllowed (x y : Nat) : (s.flipPixel x y).loadAllowed = s.loadAllowed := rfl
@[simp] theorem State.flipPixel_rndInput (x y : Nat) : (s.flipPixel x y).rndInput = s.rndInput := rfl
@[simp] theorem State.flipPixel_rndDrawn (x y : Nat) : (s.flipPixel x y).rndDrawn = s.rndDrawn := rfl
@[simp] theorem State.flipPixel_report (x y : Nat) : (s.flipPixel x y).report = s.report := rfl

/-! `State.clear` -/

@[simp] theorem State.clear_V : s.clear.V = s.V := rfl
@[simp] theorem State.clear_I : s.clear.I = s.I := rfl
@[simp] theorem State.clear_pc : s.clear.pc = s.pc := rfl
@[simp] theorem State.clear_stack : s.clear.stack = s.stack := rfl
@[simp] theorem State.clear_DT : s.clear.DT = s.DT := rfl
@[simp] theorem State.clear_ST : s.clear.ST = s.ST := rfl
@[simp] theorem State.clear_FB : s.clear.FB = Vector.replicate Config.fbHeight 0 := rfl
@[simp] theorem State.clear_mem : s.clear.mem = s.mem := rfl
@[simp] theorem State.clear_run : s.clear.run = s.run := rfl
@[simp] theorem State.clear_tone : s.clear.tone = s.tone := rfl
@[simp] theorem State.clear_font : s.clear.font = s.font := rfl
@[simp] theorem State.clear_keys : s.clear.keys = s.keys := rfl
@[simp] theorem State.clear_hostQueue : s.clear.hostQueue = s.hostQueue := rfl
@[simp] theorem State.clear_slot : s.clear.slot = s.slot := rfl
@[simp] theorem State.clear_loadAllowed : s.clear.loadAllowed = s.loadAllowed := rfl
@[simp] theorem State.clear_rndInput : s.clear.rndInput = s.rndInput := rfl
@[simp] theorem State.clear_rndDrawn : s.clear.rndDrawn = s.rndDrawn := rfl
@[simp] theorem State.clear_report : s.clear.report = s.report := rfl

/-! `State.timerTick` -/

@[simp] theorem State.timerTick_V : s.timerTick.V = s.V := rfl
@[simp] theorem State.timerTick_I : s.timerTick.I = s.I := rfl
@[simp] theorem State.timerTick_pc : s.timerTick.pc = s.pc := rfl
@[simp] theorem State.timerTick_stack : s.timerTick.stack = s.stack := rfl
@[simp] theorem State.timerTick_DT : s.timerTick.DT = countDown s.DT := rfl
@[simp] theorem State.timerTick_ST : s.timerTick.ST = countDown s.ST := rfl
@[simp] theorem State.timerTick_FB : s.timerTick.FB = s.FB := rfl
@[simp] theorem State.timerTick_mem : s.timerTick.mem = s.mem := rfl
@[simp] theorem State.timerTick_run : s.timerTick.run = s.run := rfl
@[simp] theorem State.timerTick_tone : s.timerTick.tone = s.tone := rfl
@[simp] theorem State.timerTick_font : s.timerTick.font = s.font := rfl
@[simp] theorem State.timerTick_keys : s.timerTick.keys = s.keys := rfl
@[simp] theorem State.timerTick_hostQueue : s.timerTick.hostQueue = s.hostQueue := rfl
@[simp] theorem State.timerTick_slot : s.timerTick.slot = s.slot := rfl
@[simp] theorem State.timerTick_loadAllowed : s.timerTick.loadAllowed = s.loadAllowed := rfl
@[simp] theorem State.timerTick_rndInput : s.timerTick.rndInput = s.rndInput := rfl
@[simp] theorem State.timerTick_rndDrawn : s.timerTick.rndDrawn = s.rndDrawn := rfl
@[simp] theorem State.timerTick_report : s.timerTick.report = s.report := rfl

/-! `State.driveTone` -/

@[simp] theorem State.driveTone_V : s.driveTone.V = s.V := rfl
@[simp] theorem State.driveTone_I : s.driveTone.I = s.I := rfl
@[simp] theorem State.driveTone_pc : s.driveTone.pc = s.pc := rfl
@[simp] theorem State.driveTone_stack : s.driveTone.stack = s.stack := rfl
@[simp] theorem State.driveTone_DT : s.driveTone.DT = s.DT := rfl
@[simp] theorem State.driveTone_ST : s.driveTone.ST = s.ST := rfl
@[simp] theorem State.driveTone_FB : s.driveTone.FB = s.FB := rfl
@[simp] theorem State.driveTone_mem : s.driveTone.mem = s.mem := rfl
@[simp] theorem State.driveTone_run : s.driveTone.run = s.run := rfl
@[simp] theorem State.driveTone_tone : s.driveTone.tone = decide (0 < s.ST.toNat) := rfl
@[simp] theorem State.driveTone_font : s.driveTone.font = s.font := rfl
@[simp] theorem State.driveTone_keys : s.driveTone.keys = s.keys := rfl
@[simp] theorem State.driveTone_hostQueue : s.driveTone.hostQueue = s.hostQueue := rfl
@[simp] theorem State.driveTone_slot : s.driveTone.slot = s.slot := rfl
@[simp] theorem State.driveTone_loadAllowed : s.driveTone.loadAllowed = s.loadAllowed := rfl
@[simp] theorem State.driveTone_rndInput : s.driveTone.rndInput = s.rndInput := rfl
@[simp] theorem State.driveTone_rndDrawn : s.driveTone.rndDrawn = s.rndDrawn := rfl
@[simp] theorem State.driveTone_report : s.driveTone.report = s.report := rfl

/-! `State.rndTake` -/

@[simp] theorem State.rndTake_V : s.rndTake.V = s.V := by unfold State.rndTake; split <;> simp_all
@[simp] theorem State.rndTake_I : s.rndTake.I = s.I := by unfold State.rndTake; split <;> simp_all
@[simp] theorem State.rndTake_pc : s.rndTake.pc = s.pc := by unfold State.rndTake; split <;> simp_all
@[simp] theorem State.rndTake_stack : s.rndTake.stack = s.stack := by unfold State.rndTake; split <;> simp_all
@[simp] theorem State.rndTake_DT : s.rndTake.DT = s.DT := by unfold State.rndTake; split <;> simp_all
@[simp] theorem State.rndTake_ST : s.rndTake.ST = s.ST := by unfold State.rndTake; split <;> simp_all
@[simp] theorem State.rndTake_FB : s.rndTake.FB = s.FB := by unfold State.rndTake; split <;> simp_all
@[simp] theorem State.rndTake_mem : s.rndTake.mem = s.mem := by unfold State.rndTake; split <;> simp_all
@[simp] theorem State.rndTake_run : s.rndTake.run = s.run := by unfold State.rndTake; split <;> simp_all
@[simp] theorem State.rndTake_tone : s.rndTake.tone = s.tone := by unfold State.rndTake; split <;> simp_all
@[simp] theorem State.rndTake_font : s.rndTake.font = s.font := by unfold State.rndTake; split <;> simp_all
@[simp] theorem State.rndTake_keys : s.rndTake.keys = s.keys := by unfold State.rndTake; split <;> simp_all
@[simp] theorem State.rndTake_hostQueue : s.rndTake.hostQueue = s.hostQueue := by unfold State.rndTake; split <;> simp_all
@[simp] theorem State.rndTake_slot : s.rndTake.slot = s.slot := by unfold State.rndTake; split <;> simp_all
@[simp] theorem State.rndTake_loadAllowed : s.rndTake.loadAllowed = s.loadAllowed := by unfold State.rndTake; split <;> simp_all
@[simp] theorem State.rndTake_rndInput : s.rndTake.rndInput = s.rndInput.tail := by unfold State.rndTake; split <;> simp_all
@[simp] theorem State.rndTake_report : s.rndTake.report = s.report := by unfold State.rndTake; split <;> simp_all

/-! `State.emit` -/

@[simp] theorem State.emit_V (e : Report) : (s.emit e).V = s.V := rfl
@[simp] theorem State.emit_I (e : Report) : (s.emit e).I = s.I := rfl
@[simp] theorem State.emit_pc (e : Report) : (s.emit e).pc = s.pc := rfl
@[simp] theorem State.emit_stack (e : Report) : (s.emit e).stack = s.stack := rfl
@[simp] theorem State.emit_DT (e : Report) : (s.emit e).DT = s.DT := rfl
@[simp] theorem State.emit_ST (e : Report) : (s.emit e).ST = s.ST := rfl
@[simp] theorem State.emit_FB (e : Report) : (s.emit e).FB = s.FB := rfl
@[simp] theorem State.emit_mem (e : Report) : (s.emit e).mem = s.mem := rfl
@[simp] theorem State.emit_run (e : Report) : (s.emit e).run = s.run := rfl
@[simp] theorem State.emit_tone (e : Report) : (s.emit e).tone = s.tone := rfl
@[simp] theorem State.emit_font (e : Report) : (s.emit e).font = s.font := rfl
@[simp] theorem State.emit_keys (e : Report) : (s.emit e).keys = s.keys := rfl
@[simp] theorem State.emit_hostQueue (e : Report) : (s.emit e).hostQueue = s.hostQueue := rfl
@[simp] theorem State.emit_slot (e : Report) : (s.emit e).slot = s.slot := rfl
@[simp] theorem State.emit_loadAllowed (e : Report) : (s.emit e).loadAllowed = s.loadAllowed := rfl
@[simp] theorem State.emit_rndInput (e : Report) : (s.emit e).rndInput = s.rndInput := rfl
@[simp] theorem State.emit_rndDrawn (e : Report) : (s.emit e).rndDrawn = s.rndDrawn := rfl
@[simp] theorem State.emit_report (e : Report) : (s.emit e).report = some e := rfl

/-! `State.quiet` -/

@[simp] theorem State.quiet_V : s.quiet.V = s.V := rfl
@[simp] theorem State.quiet_I : s.quiet.I = s.I := rfl
@[simp] theorem State.quiet_pc : s.quiet.pc = s.pc := rfl
@[simp] theorem State.quiet_stack : s.quiet.stack = s.stack := rfl
@[simp] theorem State.quiet_DT : s.quiet.DT = s.DT := rfl
@[simp] theorem State.quiet_ST : s.quiet.ST = s.ST := rfl
@[simp] theorem State.quiet_FB : s.quiet.FB = s.FB := rfl
@[simp] theorem State.quiet_mem : s.quiet.mem = s.mem := rfl
@[simp] theorem State.quiet_run : s.quiet.run = s.run := rfl
@[simp] theorem State.quiet_tone : s.quiet.tone = s.tone := rfl
@[simp] theorem State.quiet_font : s.quiet.font = s.font := rfl
@[simp] theorem State.quiet_keys : s.quiet.keys = s.keys := rfl
@[simp] theorem State.quiet_hostQueue : s.quiet.hostQueue = s.hostQueue := rfl
@[simp] theorem State.quiet_slot : s.quiet.slot = s.slot := rfl
@[simp] theorem State.quiet_loadAllowed : s.quiet.loadAllowed = s.loadAllowed := rfl
@[simp] theorem State.quiet_rndInput : s.quiet.rndInput = s.rndInput := rfl
@[simp] theorem State.quiet_rndDrawn : s.quiet.rndDrawn = s.rndDrawn := rfl
@[simp] theorem State.quiet_report : s.quiet.report = none := rfl

/-! `State.withQueue` -/

@[simp] theorem State.withQueue_V (q : List HostEvent) : (s.withQueue q).V = s.V := rfl
@[simp] theorem State.withQueue_I (q : List HostEvent) : (s.withQueue q).I = s.I := rfl
@[simp] theorem State.withQueue_pc (q : List HostEvent) : (s.withQueue q).pc = s.pc := rfl
@[simp] theorem State.withQueue_stack (q : List HostEvent) : (s.withQueue q).stack = s.stack := rfl
@[simp] theorem State.withQueue_DT (q : List HostEvent) : (s.withQueue q).DT = s.DT := rfl
@[simp] theorem State.withQueue_ST (q : List HostEvent) : (s.withQueue q).ST = s.ST := rfl
@[simp] theorem State.withQueue_FB (q : List HostEvent) : (s.withQueue q).FB = s.FB := rfl
@[simp] theorem State.withQueue_mem (q : List HostEvent) : (s.withQueue q).mem = s.mem := rfl
@[simp] theorem State.withQueue_run (q : List HostEvent) : (s.withQueue q).run = s.run := rfl
@[simp] theorem State.withQueue_tone (q : List HostEvent) : (s.withQueue q).tone = s.tone := rfl
@[simp] theorem State.withQueue_font (q : List HostEvent) : (s.withQueue q).font = s.font := rfl
@[simp] theorem State.withQueue_keys (q : List HostEvent) : (s.withQueue q).keys = s.keys := rfl
@[simp] theorem State.withQueue_hostQueue (q : List HostEvent) : (s.withQueue q).hostQueue = q := rfl
@[simp] theorem State.withQueue_slot (q : List HostEvent) : (s.withQueue q).slot = s.slot := rfl
@[simp] theorem State.withQueue_loadAllowed (q : List HostEvent) : (s.withQueue q).loadAllowed = s.loadAllowed := rfl
@[simp] theorem State.withQueue_rndInput (q : List HostEvent) : (s.withQueue q).rndInput = s.rndInput := rfl
@[simp] theorem State.withQueue_rndDrawn (q : List HostEvent) : (s.withQueue q).rndDrawn = s.rndDrawn := rfl
@[simp] theorem State.withQueue_report (q : List HostEvent) : (s.withQueue q).report = none := rfl

/-! `State.beginGroup` -/

@[simp] theorem State.beginGroup_V : s.beginGroup.V = s.V := rfl
@[simp] theorem State.beginGroup_I : s.beginGroup.I = s.I := rfl
@[simp] theorem State.beginGroup_pc : s.beginGroup.pc = s.pc := rfl
@[simp] theorem State.beginGroup_stack : s.beginGroup.stack = s.stack := rfl
@[simp] theorem State.beginGroup_DT : s.beginGroup.DT = s.DT := rfl
@[simp] theorem State.beginGroup_ST : s.beginGroup.ST = s.ST := rfl
@[simp] theorem State.beginGroup_FB : s.beginGroup.FB = s.FB := rfl
@[simp] theorem State.beginGroup_mem : s.beginGroup.mem = s.mem := rfl
@[simp] theorem State.beginGroup_run : s.beginGroup.run = s.run := rfl
@[simp] theorem State.beginGroup_tone : s.beginGroup.tone = s.tone := rfl
@[simp] theorem State.beginGroup_font : s.beginGroup.font = s.font := rfl
@[simp] theorem State.beginGroup_keys : s.beginGroup.keys = s.keys := rfl
@[simp] theorem State.beginGroup_hostQueue : s.beginGroup.hostQueue = takeTick s.hostQueue := rfl
@[simp] theorem State.beginGroup_slot : s.beginGroup.slot = s.slot := rfl
@[simp] theorem State.beginGroup_loadAllowed : s.beginGroup.loadAllowed = false := rfl
@[simp] theorem State.beginGroup_rndInput : s.beginGroup.rndInput = s.rndInput := rfl
@[simp] theorem State.beginGroup_rndDrawn : s.beginGroup.rndDrawn = s.rndDrawn := rfl
@[simp] theorem State.beginGroup_report : s.beginGroup.report = s.report := rfl

/-! `State.endGroup` -/

@[simp] theorem State.endGroup_V : s.endGroup.V = s.V := rfl
@[simp] theorem State.endGroup_I : s.endGroup.I = s.I := rfl
@[simp] theorem State.endGroup_pc : s.endGroup.pc = s.pc := rfl
@[simp] theorem State.endGroup_stack : s.endGroup.stack = s.stack := rfl
@[simp] theorem State.endGroup_DT : s.endGroup.DT = countDown s.DT := rfl
@[simp] theorem State.endGroup_ST : s.endGroup.ST = countDown s.ST := rfl
@[simp] theorem State.endGroup_FB : s.endGroup.FB = s.FB := rfl
@[simp] theorem State.endGroup_mem : s.endGroup.mem = s.mem := rfl
@[simp] theorem State.endGroup_run : s.endGroup.run = s.run := rfl
@[simp] theorem State.endGroup_tone : s.endGroup.tone = decide (0 < (countDown s.ST).toNat) := rfl
@[simp] theorem State.endGroup_font : s.endGroup.font = s.font := rfl
@[simp] theorem State.endGroup_keys : s.endGroup.keys = s.keys := rfl
@[simp] theorem State.endGroup_hostQueue : s.endGroup.hostQueue = s.hostQueue := rfl
@[simp] theorem State.endGroup_slot : s.endGroup.slot = s.slot := rfl
@[simp] theorem State.endGroup_loadAllowed : s.endGroup.loadAllowed = s.loadAllowed := rfl
@[simp] theorem State.endGroup_rndInput : s.endGroup.rndInput = s.rndInput := rfl
@[simp] theorem State.endGroup_rndDrawn : s.endGroup.rndDrawn = s.rndDrawn := rfl
@[simp] theorem State.endGroup_report : s.endGroup.report = s.report := rfl

end Sys2Proof.Machine
end

