-- ==== Sys2Proof/Laws/Observers.lean ====
section
/-! SUPPORT. An update that touches no field an observation looks at leaves the observation alone. -/

namespace Sys2Proof.Machine

variable (s : State)

/-! `State.setV` -/

@[simp] theorem State.setV_readCell (x : RegNo) (v : Byte) (cell : Nat) : (s.setV x v).readCell cell = s.readCell cell := rfl
@[simp] theorem State.setV_readByte (x : RegNo) (v : Byte) (b : Word) : (s.setV x v).readByte b = s.readByte b := rfl
@[simp] theorem State.setV_pixel (x : RegNo) (v : Byte) (px py : Nat) : (s.setV x v).pixel px py = s.pixel px py := rfl
@[simp] theorem State.setV_fbRead (x : RegNo) (v : Byte) (px : Fin Config.fbWidth) (py : Fin Config.fbHeight) : (s.setV x v).fbRead px py = s.fbRead px py := rfl
@[simp] theorem State.setV_effAddr (x : RegNo) (v : Byte) (r : Nat) : (s.setV x v).effAddr r = s.effAddr r := rfl
@[simp] theorem State.setV_keyHeld (x : RegNo) (v : Byte) (k : Nibble) : (s.setV x v).keyHeld k = s.keyHeld k := rfl
@[simp] theorem State.setV_fetchWord (x : RegNo) (v : Byte) : (s.setV x v).fetchWord = s.fetchWord := rfl

/-! `State.setFlag` -/

@[simp] theorem State.setFlag_readCell (f : Byte) (cell : Nat) : (s.setFlag f).readCell cell = s.readCell cell := rfl
@[simp] theorem State.setFlag_readByte (f : Byte) (b : Word) : (s.setFlag f).readByte b = s.readByte b := rfl
@[simp] theorem State.setFlag_pixel (f : Byte) (px py : Nat) : (s.setFlag f).pixel px py = s.pixel px py := rfl
@[simp] theorem State.setFlag_fbRead (f : Byte) (px : Fin Config.fbWidth) (py : Fin Config.fbHeight) : (s.setFlag f).fbRead px py = s.fbRead px py := rfl
@[simp] theorem State.setFlag_effAddr (f : Byte) (r : Nat) : (s.setFlag f).effAddr r = s.effAddr r := rfl
@[simp] theorem State.setFlag_keyHeld (f : Byte) (k : Nibble) : (s.setFlag f).keyHeld k = s.keyHeld k := rfl
@[simp] theorem State.setFlag_fetchWord (f : Byte) : (s.setFlag f).fetchWord = s.fetchWord := rfl

/-! `State.writeCell` -/

@[simp] theorem State.writeCell_getV (a : Nat) (v : Byte) (r : RegNo) : (s.writeCell a v).getV r = s.getV r := rfl
@[simp] theorem State.writeCell_pixel (a : Nat) (v : Byte) (px py : Nat) : (s.writeCell a v).pixel px py = s.pixel px py := rfl
@[simp] theorem State.writeCell_fbRead (a : Nat) (v : Byte) (px : Fin Config.fbWidth) (py : Fin Config.fbHeight) : (s.writeCell a v).fbRead px py = s.fbRead px py := rfl
@[simp] theorem State.writeCell_effAddr (a : Nat) (v : Byte) (r : Nat) : (s.writeCell a v).effAddr r = s.effAddr r := rfl
@[simp] theorem State.writeCell_keyHeld (a : Nat) (v : Byte) (k : Nibble) : (s.writeCell a v).keyHeld k = s.keyHeld k := rfl

/-! `State.writeByte` -/

@[simp] theorem State.writeByte_getV (a : Word) (v : Byte) (r : RegNo) : (s.writeByte a v).getV r = s.getV r := rfl
@[simp] theorem State.writeByte_pixel (a : Word) (v : Byte) (px py : Nat) : (s.writeByte a v).pixel px py = s.pixel px py := rfl
@[simp] theorem State.writeByte_fbRead (a : Word) (v : Byte) (px : Fin Config.fbWidth) (py : Fin Config.fbHeight) : (s.writeByte a v).fbRead px py = s.fbRead px py := rfl
@[simp] theorem State.writeByte_effAddr (a : Word) (v : Byte) (r : Nat) : (s.writeByte a v).effAddr r = s.effAddr r := rfl
@[simp] theorem State.writeByte_keyHeld (a : Word) (v : Byte) (k : Nibble) : (s.writeByte a v).keyHeld k = s.keyHeld k := rfl

/-! `State.jumpTo` -/

@[simp] theorem State.jumpTo_getV (t : Word) (r : RegNo) : (s.jumpTo t).getV r = s.getV r := rfl
@[simp] theorem State.jumpTo_readCell (t : Word) (cell : Nat) : (s.jumpTo t).readCell cell = s.readCell cell := rfl
@[simp] theorem State.jumpTo_readByte (t : Word) (b : Word) : (s.jumpTo t).readByte b = s.readByte b := rfl
@[simp] theorem State.jumpTo_pixel (t : Word) (px py : Nat) : (s.jumpTo t).pixel px py = s.pixel px py := rfl
@[simp] theorem State.jumpTo_fbRead (t : Word) (px : Fin Config.fbWidth) (py : Fin Config.fbHeight) : (s.jumpTo t).fbRead px py = s.fbRead px py := rfl
@[simp] theorem State.jumpTo_effAddr (t : Word) (r : Nat) : (s.jumpTo t).effAddr r = s.effAddr r := rfl
@[simp] theorem State.jumpTo_keyHeld (t : Word) (k : Nibble) : (s.jumpTo t).keyHeld k = s.keyHeld k := rfl

/-! `State.advance` -/

@[simp] theorem State.advance_getV (r : RegNo) : s.advance.getV r = s.getV r := rfl
@[simp] theorem State.advance_readCell (cell : Nat) : s.advance.readCell cell = s.readCell cell := rfl
@[simp] theorem State.advance_readByte (b : Word) : s.advance.readByte b = s.readByte b := rfl
@[simp] theorem State.advance_pixel (px py : Nat) : s.advance.pixel px py = s.pixel px py := rfl
@[simp] theorem State.advance_fbRead (px : Fin Config.fbWidth) (py : Fin Config.fbHeight) : s.advance.fbRead px py = s.fbRead px py := rfl
@[simp] theorem State.advance_effAddr (r : Nat) : s.advance.effAddr r = s.effAddr r := rfl
@[simp] theorem State.advance_keyHeld (k : Nibble) : s.advance.keyHeld k = s.keyHeld k := rfl

/-! `State.skipIf` -/

@[simp] theorem State.skipIf_getV (c : Bool) (r : RegNo) : (s.skipIf c).getV r = s.getV r := by cases c <;> rfl
@[simp] theorem State.skipIf_readCell (c : Bool) (cell : Nat) : (s.skipIf c).readCell cell = s.readCell cell := by cases c <;> rfl
@[simp] theorem State.skipIf_readByte (c : Bool) (b : Word) : (s.skipIf c).readByte b = s.readByte b := by cases c <;> rfl
@[simp] theorem State.skipIf_pixel (c : Bool) (px py : Nat) : (s.skipIf c).pixel px py = s.pixel px py := by cases c <;> rfl
@[simp] theorem State.skipIf_fbRead (c : Bool) (px : Fin Config.fbWidth) (py : Fin Config.fbHeight) : (s.skipIf c).fbRead px py = s.fbRead px py := by cases c <;> rfl
@[simp] theorem State.skipIf_effAddr (c : Bool) (r : Nat) : (s.skipIf c).effAddr r = s.effAddr r := by cases c <;> rfl
@[simp] theorem State.skipIf_keyHeld (c : Bool) (k : Nibble) : (s.skipIf c).keyHeld k = s.keyHeld k := by cases c <;> rfl

/-! `State.setI` -/

@[simp] theorem State.setI_getV (a : Word) (r : RegNo) : (s.setI a).getV r = s.getV r := rfl
@[simp] theorem State.setI_readCell (a : Word) (cell : Nat) : (s.setI a).readCell cell = s.readCell cell := rfl
@[simp] theorem State.setI_readByte (a : Word) (b : Word) : (s.setI a).readByte b = s.readByte b := rfl
@[simp] theorem State.setI_pixel (a : Word) (px py : Nat) : (s.setI a).pixel px py = s.pixel px py := rfl
@[simp] theorem State.setI_fbRead (a : Word) (px : Fin Config.fbWidth) (py : Fin Config.fbHeight) : (s.setI a).fbRead px py = s.fbRead px py := rfl
@[simp] theorem State.setI_keyHeld (a : Word) (k : Nibble) : (s.setI a).keyHeld k = s.keyHeld k := rfl
@[simp] theorem State.setI_fetchWord (a : Word) : (s.setI a).fetchWord = s.fetchWord := rfl

/-! `State.flipPixel` -/

@[simp] theorem State.flipPixel_getV (x y : Nat) (r : RegNo) : (s.flipPixel x y).getV r = s.getV r := rfl
@[simp] theorem State.flipPixel_readCell (x y : Nat) (cell : Nat) : (s.flipPixel x y).readCell cell = s.readCell cell := rfl
@[simp] theorem State.flipPixel_readByte (x y : Nat) (b : Word) : (s.flipPixel x y).readByte b = s.readByte b := rfl
@[simp] theorem State.flipPixel_effAddr (x y : Nat) (r : Nat) : (s.flipPixel x y).effAddr r = s.effAddr r := rfl
@[simp] theorem State.flipPixel_keyHeld (x y : Nat) (k : Nibble) : (s.flipPixel x y).keyHeld k = s.keyHeld k := rfl
@[simp] theorem State.flipPixel_fetchWord (x y : Nat) : (s.flipPixel x y).fetchWord = s.fetchWord := rfl

/-! `State.clear` -/

@[simp] theorem State.clear_getV (r : RegNo) : s.clear.getV r = s.getV r := rfl
@[simp] theorem State.clear_readCell (cell : Nat) : s.clear.readCell cell = s.readCell cell := rfl
@[simp] theorem State.clear_readByte (b : Word) : s.clear.readByte b = s.readByte b := rfl
@[simp] theorem State.clear_effAddr (r : Nat) : s.clear.effAddr r = s.effAddr r := rfl
@[simp] theorem State.clear_keyHeld (k : Nibble) : s.clear.keyHeld k = s.keyHeld k := rfl
@[simp] theorem State.clear_fetchWord : s.clear.fetchWord = s.fetchWord := rfl

/-! `State.timerTick` -/

@[simp] theorem State.timerTick_getV (r : RegNo) : s.timerTick.getV r = s.getV r := rfl
@[simp] theorem State.timerTick_readCell (cell : Nat) : s.timerTick.readCell cell = s.readCell cell := rfl
@[simp] theorem State.timerTick_readByte (b : Word) : s.timerTick.readByte b = s.readByte b := rfl
@[simp] theorem State.timerTick_pixel (px py : Nat) : s.timerTick.pixel px py = s.pixel px py := rfl
@[simp] theorem State.timerTick_fbRead (px : Fin Config.fbWidth) (py : Fin Config.fbHeight) : s.timerTick.fbRead px py = s.fbRead px py := rfl
@[simp] theorem State.timerTick_effAddr (r : Nat) : s.timerTick.effAddr r = s.effAddr r := rfl
@[simp] theorem State.timerTick_keyHeld (k : Nibble) : s.timerTick.keyHeld k = s.keyHeld k := rfl
@[simp] theorem State.timerTick_fetchWord : s.timerTick.fetchWord = s.fetchWord := rfl

/-! `State.driveTone` -/

@[simp] theorem State.driveTone_getV (r : RegNo) : s.driveTone.getV r = s.getV r := rfl
@[simp] theorem State.driveTone_readCell (cell : Nat) : s.driveTone.readCell cell = s.readCell cell := rfl
@[simp] theorem State.driveTone_readByte (b : Word) : s.driveTone.readByte b = s.readByte b := rfl
@[simp] theorem State.driveTone_pixel (px py : Nat) : s.driveTone.pixel px py = s.pixel px py := rfl
@[simp] theorem State.driveTone_fbRead (px : Fin Config.fbWidth) (py : Fin Config.fbHeight) : s.driveTone.fbRead px py = s.fbRead px py := rfl
@[simp] theorem State.driveTone_effAddr (r : Nat) : s.driveTone.effAddr r = s.effAddr r := rfl
@[simp] theorem State.driveTone_keyHeld (k : Nibble) : s.driveTone.keyHeld k = s.keyHeld k := rfl
@[simp] theorem State.driveTone_fetchWord : s.driveTone.fetchWord = s.fetchWord := rfl

/-! `State.rndTake` -/

@[simp] theorem State.rndTake_getV (r : RegNo) : s.rndTake.getV r = s.getV r := by unfold State.rndTake; split <;> rfl
@[simp] theorem State.rndTake_readCell (cell : Nat) : s.rndTake.readCell cell = s.readCell cell := by unfold State.rndTake; split <;> rfl
@[simp] theorem State.rndTake_readByte (b : Word) : s.rndTake.readByte b = s.readByte b := by unfold State.rndTake; split <;> rfl
@[simp] theorem State.rndTake_pixel (px py : Nat) : s.rndTake.pixel px py = s.pixel px py := by unfold State.rndTake; split <;> rfl
@[simp] theorem State.rndTake_fbRead (px : Fin Config.fbWidth) (py : Fin Config.fbHeight) : s.rndTake.fbRead px py = s.fbRead px py := by unfold State.rndTake; split <;> rfl
@[simp] theorem State.rndTake_effAddr (r : Nat) : s.rndTake.effAddr r = s.effAddr r := by unfold State.rndTake; split <;> rfl
@[simp] theorem State.rndTake_keyHeld (k : Nibble) : s.rndTake.keyHeld k = s.keyHeld k := by unfold State.rndTake; split <;> rfl
@[simp] theorem State.rndTake_fetchWord : s.rndTake.fetchWord = s.fetchWord := by unfold State.rndTake; split <;> rfl

/-! `State.emit` -/

@[simp] theorem State.emit_getV (e : Report) (r : RegNo) : (s.emit e).getV r = s.getV r := rfl
@[simp] theorem State.emit_readCell (e : Report) (cell : Nat) : (s.emit e).readCell cell = s.readCell cell := rfl
@[simp] theorem State.emit_readByte (e : Report) (b : Word) : (s.emit e).readByte b = s.readByte b := rfl
@[simp] theorem State.emit_pixel (e : Report) (px py : Nat) : (s.emit e).pixel px py = s.pixel px py := rfl
@[simp] theorem State.emit_fbRead (e : Report) (px : Fin Config.fbWidth) (py : Fin Config.fbHeight) : (s.emit e).fbRead px py = s.fbRead px py := rfl
@[simp] theorem State.emit_effAddr (e : Report) (r : Nat) : (s.emit e).effAddr r = s.effAddr r := rfl
@[simp] theorem State.emit_keyHeld (e : Report) (k : Nibble) : (s.emit e).keyHeld k = s.keyHeld k := rfl
@[simp] theorem State.emit_fetchWord (e : Report) : (s.emit e).fetchWord = s.fetchWord := rfl

/-! `State.quiet` -/

@[simp] theorem State.quiet_getV (r : RegNo) : s.quiet.getV r = s.getV r := rfl
@[simp] theorem State.quiet_readCell (cell : Nat) : s.quiet.readCell cell = s.readCell cell := rfl
@[simp] theorem State.quiet_readByte (b : Word) : s.quiet.readByte b = s.readByte b := rfl
@[simp] theorem State.quiet_pixel (px py : Nat) : s.quiet.pixel px py = s.pixel px py := rfl
@[simp] theorem State.quiet_fbRead (px : Fin Config.fbWidth) (py : Fin Config.fbHeight) : s.quiet.fbRead px py = s.fbRead px py := rfl
@[simp] theorem State.quiet_effAddr (r : Nat) : s.quiet.effAddr r = s.effAddr r := rfl
@[simp] theorem State.quiet_keyHeld (k : Nibble) : s.quiet.keyHeld k = s.keyHeld k := rfl
@[simp] theorem State.quiet_fetchWord : s.quiet.fetchWord = s.fetchWord := rfl

/-! `State.withQueue` -/

@[simp] theorem State.withQueue_getV (q : List HostEvent) (r : RegNo) : (s.withQueue q).getV r = s.getV r := rfl
@[simp] theorem State.withQueue_readCell (q : List HostEvent) (cell : Nat) : (s.withQueue q).readCell cell = s.readCell cell := rfl
@[simp] theorem State.withQueue_readByte (q : List HostEvent) (b : Word) : (s.withQueue q).readByte b = s.readByte b := rfl
@[simp] theorem State.withQueue_pixel (q : List HostEvent) (px py : Nat) : (s.withQueue q).pixel px py = s.pixel px py := rfl
@[simp] theorem State.withQueue_fbRead (q : List HostEvent) (px : Fin Config.fbWidth) (py : Fin Config.fbHeight) : (s.withQueue q).fbRead px py = s.fbRead px py := rfl
@[simp] theorem State.withQueue_effAddr (q : List HostEvent) (r : Nat) : (s.withQueue q).effAddr r = s.effAddr r := rfl
@[simp] theorem State.withQueue_keyHeld (q : List HostEvent) (k : Nibble) : (s.withQueue q).keyHeld k = s.keyHeld k := rfl
@[simp] theorem State.withQueue_fetchWord (q : List HostEvent) : (s.withQueue q).fetchWord = s.fetchWord := rfl

/-! `State.beginGroup` -/

@[simp] theorem State.beginGroup_getV (r : RegNo) : s.beginGroup.getV r = s.getV r := rfl
@[simp] theorem State.beginGroup_readCell (cell : Nat) : s.beginGroup.readCell cell = s.readCell cell := rfl
@[simp] theorem State.beginGroup_readByte (b : Word) : s.beginGroup.readByte b = s.readByte b := rfl
@[simp] theorem State.beginGroup_pixel (px py : Nat) : s.beginGroup.pixel px py = s.pixel px py := rfl
@[simp] theorem State.beginGroup_fbRead (px : Fin Config.fbWidth) (py : Fin Config.fbHeight) : s.beginGroup.fbRead px py = s.fbRead px py := rfl
@[simp] theorem State.beginGroup_effAddr (r : Nat) : s.beginGroup.effAddr r = s.effAddr r := rfl
@[simp] theorem State.beginGroup_keyHeld (k : Nibble) : s.beginGroup.keyHeld k = s.keyHeld k := rfl
@[simp] theorem State.beginGroup_fetchWord : s.beginGroup.fetchWord = s.fetchWord := rfl

/-! `State.endGroup` -/

@[simp] theorem State.endGroup_getV (r : RegNo) : s.endGroup.getV r = s.getV r := rfl
@[simp] theorem State.endGroup_readCell (cell : Nat) : s.endGroup.readCell cell = s.readCell cell := rfl
@[simp] theorem State.endGroup_readByte (b : Word) : s.endGroup.readByte b = s.readByte b := rfl
@[simp] theorem State.endGroup_pixel (px py : Nat) : s.endGroup.pixel px py = s.pixel px py := rfl
@[simp] theorem State.endGroup_fbRead (px : Fin Config.fbWidth) (py : Fin Config.fbHeight) : s.endGroup.fbRead px py = s.fbRead px py := rfl
@[simp] theorem State.endGroup_effAddr (r : Nat) : s.endGroup.effAddr r = s.effAddr r := rfl
@[simp] theorem State.endGroup_keyHeld (k : Nibble) : s.endGroup.keyHeld k = s.keyHeld k := rfl
@[simp] theorem State.endGroup_fetchWord : s.endGroup.fetchWord = s.fetchWord := rfl

end Sys2Proof.Machine
end

