-- ==== Sys2Proof/Laws/Registers.lean ====
section
/-! SUPPORT. Register and operand laws. -/

namespace Sys2Proof.Machine

variable (s : State)

/-- A register read after a register write (10_state.md R10). -/
theorem State.getV_setV (x y : RegNo) (v : Byte) : (s.setV x v).getV y = if y = x then v else s.getV y := by
  simp [State.getV, State.setV, Vector.get_eq_getElem, Vector.getElem_set, BitVec.toNat_eq, eq_comm]

@[simp] theorem State.getV_setV_same (x : RegNo) (v : Byte) : (s.setV x v).getV x = v := by
  simp [State.getV_setV]

theorem State.getV_setV_ne {x y : RegNo} (h : y ≠ x) (v : Byte) : (s.setV x v).getV y = s.getV y := by
  simp [State.getV_setV, h]

/-- The flag write is a register write of `V[0xF]` (10_state.md R11). -/
theorem State.getV_setFlag (y : RegNo) (f : Byte) : (s.setFlag f).getV y = if y = regF then f else s.getV y :=
  State.getV_setV s regF y f

/-- Two register files that read alike are one. -/
theorem V_ext_getV {s t : State} (h : ∀ r, s.getV r = t.getV r) : s.V = t.V := by
  apply Vector.ext
  intro i hi
  have hr := h (BitVec.ofNat 4 i)
  have e : (BitVec.ofNat 4 i).toNat = i := by simp; omega
  simpa [State.getV, Vector.get_eq_getElem, e, Nat.mod_eq_of_lt hi] using hr

/-- `pc - 2` during execute is where the instruction was fetched (40_cycle_fsm.md R72). -/
@[simp] theorem State.advance_addr0 : s.advance.addr0 = s.pc := by simp [State.addr0]

theorem regOf_toNat {r : Nat} (h : r < 16) : (regOf r).toNat = r := by
  simp [regOf]; omega

theorem regOf_inj {a b : Nat} (ha : a < 16) (hb : b < 16) (h : regOf a = regOf b) : a = b := by
  have := congrArg BitVec.toNat h
  rwa [regOf_toNat ha, regOf_toNat hb] at this

@[simp] theorem regOf_toNat_self (x : RegNo) : regOf x.toNat = x := by simp [regOf]

/-- The low 12 bits of an address are its remainder modulo 4096 (20_memory.md R31). -/
theorem cellOf_eq (a : Word) : cellOf a = a.toNat % 4096 := rfl

/-- The cell an address selects is one of the 4096 (20_memory.md R31). -/
theorem cellOf_lt (a : Word) : cellOf a < Config.memSize := Nat.mod_lt _ (by decide)

/-- The cell of `I + r` (43_index_memory.md R136). -/
theorem cellOf_effAddr (r : Nat) : cellOf (s.effAddr r) = (s.I.toNat + r) % 4096 := by
  simp only [cellOf_eq, State.effAddr, BitVec.toNat_add, BitVec.toNat_ofNat]; omega

/-- Offsets below 4096 reach different cells. -/
theorem cellOf_effAddr_inj {a b : Nat} (ha : a < 4096) (hb : b < 4096)
    (h : cellOf (s.effAddr a) = cellOf (s.effAddr b)) : a = b := by
  rw [cellOf_effAddr, cellOf_effAddr] at h; omega

theorem flagBit_eq_one_iff (c : Bool) : flagBit c = 1 ↔ c = true := by cases c <;> decide

theorem flagBit_toNat (c : Bool) : (flagBit c).toNat = if c then 1 else 0 := by cases c <;> decide

/-- The random sample and its taking, for a sample written down in advance. -/
theorem State.rndNext_cons {r : Byte} {rest : List Byte} (h : s.rndInput = r :: rest) : s.rndNext = r := by
  simp [State.rndNext, h]

end Sys2Proof.Machine
end

