-- ==== Sys2Proof/Laws/Display.lean ====
section
/-! SUPPORT. The pixel engine and what drawing does: `Drawn P s t` says all that a draw of the cells `P` from `s` to `t` does, and the folds of
Dxyn are draws (44_display.md R150 to R154). -/

namespace Sys2Proof.Machine

variable (s : State)

theorem rowOf_val (y : Nat) : (rowOf y).val = y % 64 := rfl

theorem pixel_mod (x y : Nat) : s.pixel (x % 128) (y % 64) = s.pixel x y := by
  simp [State.pixel, columnOf, rowOf]

/-- A cell after the flip of a cell (R150): both taken modulo the size of the frame buffer. -/
theorem pixel_flipPixel (x y px py : Nat) :
    (s.flipPixel x y).pixel px py =
      if px % 128 = x % 128 ∧ py % 64 = y % 64 then !s.pixel px py else s.pixel px py := by
  have hx : px % 128 < 128 := Nat.mod_lt _ (by decide)
  simp only [State.pixel, State.flipPixel, Vector.get_eq_getElem, columnOf, rowOf, Config.fbWidth, Config.fbHeight]
  rw [Vector.getElem_set]
  by_cases hy : y % 64 = py % 64
  · by_cases hxx : px % 128 = x % 128
    · simp [hy, hxx, Nat.mod_lt]
    · simp [hy, hxx, BitVec.getLsbD_xor, BitVec.getLsbD_twoPow, Ne.symm hxx]
  · simp [hy, Ne.symm hy]

/-- A cleared frame buffer (R151). -/
@[simp] theorem pixel_clear (px py : Nat) : s.clear.pixel px py = false := by
  simp [State.pixel, State.clear, Vector.get_eq_getElem]

/-- Two frame buffers that read alike are one. -/
theorem FB_ext_pixel {s t : State} (h : ∀ px py, s.pixel px py = t.pixel px py) : s.FB = t.FB := by
  apply Vector.ext
  intro i hi
  apply BitVec.eq_of_getLsbD_eq
  intro j hj
  have := h j i
  simpa [State.pixel, Vector.get_eq_getElem, columnOf, rowOf, Nat.mod_eq_of_lt hi, Nat.mod_eq_of_lt hj] using this

/-- What drawing the cells `P` does: exactly those cells flip, the flag register becomes 1 if one of them was off and else keeps its value, and nothing else
changes. -/
structure Drawn (P : Nat → Nat → Prop) (s t : State) : Prop where
  rest : t = { s with V := t.V, FB := t.FB }
  regs : ∀ r, r ≠ regF → t.getV r = s.getV r
  flips : ∀ px py, px < 128 → py < 64 → P px py → t.pixel px py = !s.pixel px py
  keeps : ∀ px py, px < 128 → py < 64 → ¬ P px py → t.pixel px py = s.pixel px py
  sets : ∀ px py, px < 128 → py < 64 → P px py → s.pixel px py = false → t.getV regF = 1
  stays : (∀ px py, px < 128 → py < 64 → P px py → s.pixel px py = true) → t.getV regF = s.getV regF

theorem Drawn.nothing : Drawn (fun _ _ => False) s s :=
  ⟨rfl, fun _ _ => rfl, fun _ _ _ _ h => h.elim, fun _ _ _ _ _ => rfl, fun _ _ _ _ h => h.elim, fun _ => rfl⟩

variable {s}

theorem Drawn.congr {P Q : Nat → Nat → Prop} {t : State} (d : Drawn P s t)
    (h : ∀ px py, px < 128 → py < 64 → (P px py ↔ Q px py)) : Drawn Q s t where
  rest := d.rest
  regs := d.regs
  flips px py hx hy q := d.flips px py hx hy ((h px py hx hy).mpr q)
  keeps px py hx hy q := d.keeps px py hx hy (fun p => q ((h px py hx hy).mp p))
  sets px py hx hy q := d.sets px py hx hy ((h px py hx hy).mpr q)
  stays hq := d.stays (fun px py hx hy p => hq px py hx hy ((h px py hx hy).mp p))

/-- One draw after another, of different cells, is the draw of both. -/
theorem Drawn.trans {P Q : Nat → Nat → Prop} {t u : State} (d : Drawn P s t) (e : Drawn Q t u)
    (disj : ∀ px py, P px py → ¬ Q px py) : Drawn (fun px py => P px py ∨ Q px py) s u where
  rest := by
    have h1 := d.rest
    have h2 := e.rest
    generalize t.V = a, t.FB = b, u.V = c, u.FB = f at h1 h2
    subst h1; exact h2
  regs r hr := (e.regs r hr).trans (d.regs r hr)
  flips px py hx hy h := by
    rcases h with p | q
    · rw [e.keeps px py hx hy (disj px py p), d.flips px py hx hy p]
    · rw [e.flips px py hx hy q, d.keeps px py hx hy (fun p => disj px py p q)]
  keeps px py hx hy h := by
    rw [e.keeps px py hx hy (fun q => h (.inr q)), d.keeps px py hx hy (fun p => h (.inl p))]
  sets px py hx hy h off := by
    rcases h with p | q
    · by_cases all : ∀ px py, px < 128 → py < 64 → Q px py → t.pixel px py = true
      · rw [e.stays all, d.sets px py hx hy p off]
      · push Not at all
        obtain ⟨qx, qy, hqx, hqy, hq, hoff⟩ := all
        exact e.sets qx qy hqx hqy hq (by simpa using hoff)
    · exact e.sets px py hx hy q (by rw [d.keeps px py hx hy (fun p => disj px py p q), off])
  stays all := by
    rw [e.stays (fun px py hx hy q => by
      rw [d.keeps px py hx hy (fun p => disj px py p q)]; exact all px py hx hy (.inr q))]
    exact d.stays (fun px py hx hy p => all px py hx hy (.inl p))

theorem Drawn.mem {P : Nat → Nat → Prop} {t : State} (d : Drawn P s t) : t.mem = s.mem := by rw [d.rest]

theorem Drawn.readByte {P : Nat → Nat → Prop} {t : State} (d : Drawn P s t) (a : Word) : t.readByte a = s.readByte a := by
  rw [d.rest]; rfl

theorem Drawn.effAddr {P : Nat → Nat → Prop} {t : State} (d : Drawn P s t) (r : Nat) : t.effAddr r = s.effAddr r := by
  rw [d.rest]; rfl

variable (s)

theorem drawPixel_eq (x y : Nat) :
    drawPixel x y s = if s.pixel x y = true then s.flipPixel x y else (s.flipPixel x y).setFlag 1 := by
  cases h : s.pixel x y <;> simp [drawPixel, State.togglePixel, h]

/-- One pixel of a draw (R153). -/
theorem drawn_drawPixel (x y : Nat) : Drawn (fun px py => px = x % 128 ∧ py = y % 64) s (drawPixel x y s) := by
  have pix : ∀ px py, (drawPixel x y s).pixel px py =
      if px % 128 = x % 128 ∧ py % 64 = y % 64 then !s.pixel px py else s.pixel px py := by
    intro px py
    rw [← pixel_flipPixel, drawPixel_eq]
    split <;> simp
  have flag : (drawPixel x y s).getV regF = if s.pixel x y = true then s.getV regF else 1 := by
    rw [drawPixel_eq]
    split
    · exact State.flipPixel_getV s x y regF
    · exact State.getV_setV_same _ regF 1
  refine ⟨?_, ?_, ?_, ?_, ?_, ?_⟩
  · rw [drawPixel_eq]; split <;> rfl
  · intro r hr
    rw [drawPixel_eq]
    split
    · exact State.flipPixel_getV s x y r
    · rw [State.getV_setFlag, if_neg hr]; exact State.flipPixel_getV s x y r
  · rintro px py hx hy ⟨rfl, rfl⟩
    rw [pix, if_pos ⟨Nat.mod_mod _ _, Nat.mod_mod _ _⟩]
  · intro px py hx hy h
    rw [pix, if_neg (by rwa [Nat.mod_eq_of_lt hx, Nat.mod_eq_of_lt hy])]
  · rintro px py hx hy ⟨rfl, rfl⟩ off
    rw [pixel_mod] at off
    rw [flag, off]; rfl
  · intro all
    have := all _ _ (Nat.mod_lt x (by decide)) (Nat.mod_lt y (by decide)) ⟨rfl, rfl⟩
    rw [pixel_mod] at this
    rw [flag, if_pos this]

/-- Column `c` of a sprite row (R153, R154). -/
theorem drawn_drawColumn (x0 y c : Nat) (b : Byte) :
    Drawn (fun px py => b.getLsbD (7 - c) = true ∧ px = (x0 + c) % 128 ∧ py = y % 64) s (drawColumn x0 y b s c) := by
  unfold drawColumn
  split
  · next h => exact (drawn_drawPixel s (x0 + c) y).congr (fun px py _ _ => by simp [h])
  · next h => exact (Drawn.nothing s).congr (fun px py _ _ => by simp [h])

/-- The first `k` columns of a sprite row (R153). -/
theorem drawn_columns (x0 y : Nat) (b : Byte) {k : Nat} (hk : k ≤ 8) :
    Drawn (fun px py => ∃ c, c < k ∧ b.getLsbD (7 - c) = true ∧ px = (x0 + c) % 128 ∧ py = y % 64) s
      ((List.range k).foldl (drawColumn x0 y b) s) := by
  induction k with
  | zero => exact (Drawn.nothing s).congr (by simp)
  | succ k ih =>
    rw [List.range_succ, List.foldl_append]
    refine ((ih (by omega)).trans (drawn_drawColumn _ x0 y k b) ?_).congr ?_
    · rintro px py ⟨c, hc, -, h1, -⟩ ⟨-, h2, -⟩
      omega
    · intro px py _ _
      constructor
      · rintro (⟨c, hc, h⟩ | h)
        · exact ⟨c, by omega, h⟩
        · exact ⟨k, by omega, h⟩
      · rintro ⟨c, hc, h⟩
        by_cases e : c = k
        · subst e; exact .inr h
        · exact .inl ⟨c, by omega, h⟩

/-- Row `r` of a sprite (R153, R154). -/
theorem drawn_drawRow (x0 y0 r : Nat) :
    Drawn (fun px py => ∃ c, c < 8 ∧ (s.readByte (s.effAddr r)).getLsbD (7 - c) = true ∧
      px = (x0 + c) % 128 ∧ py = (y0 + r) % 64) s (drawRow x0 y0 s r) :=
  drawn_columns s x0 (y0 + r) _ (Nat.le_refl 8)

/-- Everything a sprite of at most 64 rows draws (R153). -/
theorem drawn_drawSprite (x0 y0 : Nat) {rows : Nat} (fits : rows ≤ 64) :
    Drawn (fun px py => ∃ r c, r < rows ∧ c < 8 ∧ (s.readByte (s.effAddr r)).getLsbD (7 - c) = true ∧
      px = (x0 + c) % 128 ∧ py = (y0 + r) % 64) s (drawSprite x0 y0 rows s) := by
  induction rows with
  | zero => exact (Drawn.nothing s).congr (by simp)
  | succ k ih =>
    have ih := ih (by omega)
    rw [drawSprite, List.range_succ, List.foldl_append]
    rw [drawSprite] at ih
    refine (ih.trans (drawn_drawRow _ x0 y0 k) ?_).congr ?_
    · rintro px py ⟨r, c, hr, -, -, -, h1⟩ ⟨c', -, -, -, h2⟩
      omega
    · intro px py _ _
      rw [ih.effAddr]
      simp only [ih.readByte]
      constructor
      · rintro (⟨r, c, hr, hc, h⟩ | ⟨c, hc, h⟩)
        · exact ⟨r, c, by omega, hc, h⟩
        · exact ⟨k, c, by omega, hc, h⟩
      · rintro ⟨r, c, hr, hc, h⟩
        by_cases e : r = k
        · subst e; exact .inr ⟨c, hc, h⟩
        · exact .inl ⟨r, c, by omega, hc, h⟩

end Sys2Proof.Machine
end

