-- ==== Sys2Proof/Laws/Memory.lean ====
section
/-! SUPPORT. Memory laws: a read after a write, and every memory operation keeps the canonical form. -/

namespace Sys2Proof.Machine

theorem Memory.lookup_insert (d : Byte) (a b : Nat) (v : Byte) (m : Memory) :
    Memory.lookup d b (Memory.insert a v m) = if b = a then v else Memory.lookup d b m := by
  induction m with
  | nil => simp [Memory.insert, Memory.lookup, eq_comm]
  | cons c m ih =>
    obtain ⟨k, w⟩ := c
    simp only [Memory.insert]
    split
    · next hlt =>
      simp only [Memory.lookup, ih]
      by_cases hb : k = b
      · simp [hb, show ¬ b = a by omega]
      · simp [hb]
    · split
      · next heq => subst heq; simp only [Memory.lookup, eq_comm (a := b)]; split <;> rfl
      · next hne => simp [Memory.lookup, eq_comm (a := b)]

theorem Memory.lookup_erase (d : Byte) (a b : Nat) (m : Memory) :
    Memory.lookup d b (Memory.erase a m) = if b = a then d else Memory.lookup d b m := by
  induction m with
  | nil => simp [Memory.erase, Memory.lookup]
  | cons c m ih =>
    obtain ⟨k, w⟩ := c
    simp only [Memory.erase]
    split
    · next heq => subst heq; rw [ih]; by_cases hb : b = k <;> simp [Memory.lookup, hb, eq_comm]
    · next hne =>
      simp only [Memory.lookup, ih]
      by_cases hb : k = b
      · simp [hb, show ¬ b = a by omega]
      · simp [hb]

/-- A lookup after a store; `d` is the reset content of the cell looked up, `e` that of the cell stored to. -/
theorem Memory.lookup_store (d e : Byte) (a b : Nat) (v : Byte) (m : Memory) (h : b = a → d = e) :
    Memory.lookup d b (Memory.store e a v m) = if b = a then v else Memory.lookup d b m := by
  unfold Memory.store
  split
  · next hv => rw [Memory.lookup_erase]; by_cases hb : b = a <;> simp [hb, hv]; exact h hb
  · exact Memory.lookup_insert d a b v m

/-- A cell read after a cell write (20_memory.md R32). -/
theorem State.readCell_writeCell (s : State) (a b : Nat) (v : Byte) :
    (s.writeCell a v).readCell b = if b = a then v else s.readCell b := by
  simp only [State.readCell, State.writeCell_mem, State.writeCell_font]
  exact Memory.lookup_store _ _ a b v s.mem (fun h => by rw [h])

/-- A byte read after a byte write (20_memory.md R31, R32). -/
theorem State.readByte_writeByte (s : State) (a b : Word) (v : Byte) :
    (s.writeByte a v).readByte b = if cellOf b = cellOf a then v else s.readByte b :=
  State.readCell_writeCell s (cellOf a) (cellOf b) v

@[simp] theorem State.readByte_writeByte_same (s : State) (a : Word) (v : Byte) : (s.writeByte a v).readByte a = v := by
  simp [State.readByte_writeByte]

theorem Memory.wfFrom_mono {font : Vector Byte Config.fontBytes} {lo lo' : Nat} (h : lo' ≤ lo) {m : Memory}
    (w : Memory.wfFrom font lo m = true) : Memory.wfFrom font lo' m = true := by
  cases m with
  | nil => rfl
  | cons c m =>
    simp only [Memory.wfFrom, Bool.and_eq_true, decide_eq_true_eq] at w ⊢
    exact ⟨⟨⟨by omega, w.1.1.2⟩, w.1.2⟩, w.2⟩

theorem Memory.wfFrom_erase {font : Vector Byte Config.fontBytes} (a : Nat) {m : Memory} :
    ∀ {lo : Nat}, Memory.wfFrom font lo m = true → Memory.wfFrom font lo (Memory.erase a m) = true := by
  induction m with
  | nil => intro lo _; rfl
  | cons c m ih =>
    intro lo w
    simp only [Memory.wfFrom, Bool.and_eq_true, decide_eq_true_eq] at w
    simp only [Memory.erase]
    split
    · exact ih (Memory.wfFrom_mono (by omega) w.2)
    · simp only [Memory.wfFrom, Bool.and_eq_true, decide_eq_true_eq]
      exact ⟨w.1, ih w.2⟩

theorem Memory.wfFrom_insert {font : Vector Byte Config.fontBytes} {a : Nat} {v : Byte}
    (ha : a < Config.memSize) (hv : v ≠ unlisted font a) {m : Memory} :
    ∀ {lo : Nat}, lo ≤ a → Memory.wfFrom font lo m = true → Memory.wfFrom font lo (Memory.insert a v m) = true := by
  induction m with
  | nil =>
    intro lo h _
    simp only [Memory.insert, Memory.wfFrom, Bool.and_eq_true, decide_eq_true_eq]
    exact ⟨⟨⟨h, ha⟩, hv⟩, trivial⟩
  | cons c m ih =>
    intro lo h w
    obtain ⟨k, u⟩ := c
    simp only [Memory.wfFrom, Bool.and_eq_true, decide_eq_true_eq] at w
    simp only [Memory.insert]
    split
    · simp only [Memory.wfFrom, Bool.and_eq_true, decide_eq_true_eq]
      exact ⟨w.1, ih (by omega) w.2⟩
    · split
      · next _ e =>
        subst e
        simp only [Memory.wfFrom, Bool.and_eq_true, decide_eq_true_eq]
        exact ⟨⟨⟨h, ha⟩, hv⟩, w.2⟩
      · simp only [Memory.wfFrom, Bool.and_eq_true, decide_eq_true_eq]
        exact ⟨⟨⟨h, ha⟩, hv⟩, ⟨⟨by omega, w.1.1.2⟩, w.1.2⟩, w.2⟩

/-- Storing to a cell keeps the canonical form. -/
theorem Memory.wf_store {font : Vector Byte Config.fontBytes} {a : Nat} (ha : a < Config.memSize) (v : Byte) {m : Memory}
    (w : Memory.wf font m = true) : Memory.wf font (Memory.store (unlisted font a) a v m) = true := by
  unfold Memory.store
  split
  · exact Memory.wfFrom_erase a w
  · next hv => exact Memory.wfFrom_insert ha hv (Nat.zero_le a) w

/-- The canonical form of a state's memory. -/
abbrev State.memWf (s : State) : Prop := Memory.wf s.font s.mem = true

theorem State.memWf_writeCell {s : State} {a : Nat} (ha : a < Config.memSize) (v : Byte) (w : s.memWf) :
    (s.writeCell a v).memWf := by
  simpa [State.memWf] using Memory.wf_store ha v w

theorem State.memWf_writeByte {s : State} (a : Word) (v : Byte) (w : s.memWf) : (s.writeByte a v).memWf :=
  State.memWf_writeCell (cellOf_lt a) v w

/-- The reset memory, which lists nothing, is in the canonical form whatever `FONT` is. -/
theorem Memory.wf_nil (font : Vector Byte Config.fontBytes) : Memory.wf font [] = true := rfl

end Sys2Proof.Machine
end

