-- ==== Sys2Proof/Laws/Transfer.lean ====
section
/-! SUPPORT. What the block transfers do: `storeRegs`, `loadRegs`, `storeDigits`, `copyBytes` (43_index_memory.md R133 to R135, 20_memory.md R43). -/

namespace Sys2Proof.Machine

variable (s : State)

/-- An update that commutes with every turn of a loop commutes with the loop. -/
theorem foldl_commute {α : Type} (g : State → State) (f : State → α → State) (h : ∀ t a, f (g t) a = g (f t a)) (l : List α) :
    l.foldl f (g s) = g (l.foldl f s) := by
  induction l generalizing s with
  | nil => rfl
  | cons a l ih => rw [List.foldl_cons, h, ih, List.foldl_cons]

theorem storeRegs_succ (k : Nat) :
    storeRegs (k + 1) s =
      (storeRegs k s).writeByte ((storeRegs k s).effAddr k) ((storeRegs k s).getV (regOf k)) := by
  simp [storeRegs, List.range_succ, List.foldl_append]

/-- Storing registers changes memory and nothing else. -/
theorem storeRegs_eq (k : Nat) : storeRegs k s = { s with mem := (storeRegs k s).mem } := by
  induction k with
  | zero => rfl
  | succ k ih =>
    rw [storeRegs_succ]
    generalize storeRegs k s = t at ih ⊢
    rw [ih]; rfl

theorem storeRegs_effAddr (k r : Nat) : (storeRegs k s).effAddr r = s.effAddr r := by rw [storeRegs_eq]; rfl

theorem storeRegs_getV (k : Nat) (q : RegNo) : (storeRegs k s).getV q = s.getV q := by rw [storeRegs_eq]; rfl

/-- Everything the stores of Fx55 do to memory (R134): each cell `I + r` gets `V[r]`, every other cell keeps its byte. -/
theorem storeRegs_readByte {k : Nat} (hk : k ≤ 4096) :
    (∀ r, r < k → (storeRegs k s).readByte (s.effAddr r) = s.getV (regOf r)) ∧
    (∀ b, (∀ r, r < k → cellOf b ≠ cellOf (s.effAddr r)) → (storeRegs k s).readByte b = s.readByte b) := by
  induction k with
  | zero => exact ⟨fun r h => absurd h (Nat.not_lt_zero r), fun _ _ => rfl⟩
  | succ k ih =>
    obtain ⟨ihs, iho⟩ := ih (by omega)
    rw [storeRegs_succ, storeRegs_effAddr, storeRegs_getV]
    constructor
    · intro r hr
      rw [State.readByte_writeByte]
      by_cases e : r = k
      · subst e; simp
      · rw [if_neg (fun h => e (cellOf_effAddr_inj s (by omega) (by omega) h))]
        exact ihs r (by omega)
    · intro b hb
      rw [State.readByte_writeByte, if_neg (hb k (by omega))]
      exact iho b (fun r hr => hb r (by omega))

theorem storeRegs_memWf (k : Nat) (w : s.memWf) : (storeRegs k s).memWf := by
  induction k with
  | zero => exact w
  | succ k ih => rw [storeRegs_succ]; exact State.memWf_writeByte _ _ ih

theorem loadRegs_succ (k : Nat) :
    loadRegs (k + 1) s = (loadRegs k s).setV (regOf k) ((loadRegs k s).readByte ((loadRegs k s).effAddr k)) := by
  simp [loadRegs, List.range_succ, List.foldl_append]

/-- Loading registers changes registers and nothing else. -/
theorem loadRegs_eq (k : Nat) : loadRegs k s = { s with V := (loadRegs k s).V } := by
  induction k with
  | zero => rfl
  | succ k ih =>
    rw [loadRegs_succ]
    generalize loadRegs k s = t at ih ⊢
    rw [ih]; rfl

theorem loadRegs_effAddr (k r : Nat) : (loadRegs k s).effAddr r = s.effAddr r := by rw [loadRegs_eq]; rfl

theorem loadRegs_readByte (k : Nat) (b : Word) : (loadRegs k s).readByte b = s.readByte b := by rw [loadRegs_eq]; rfl

/-- Everything the loads of Fx65 do to registers (R135): `V[r]` gets the byte at `I + r`, every register at or above the count keeps its value. -/
theorem loadRegs_getV {k : Nat} (hk : k ≤ 16) (q : RegNo) :
    (loadRegs k s).getV q = if q.toNat < k then s.readByte (s.effAddr q.toNat) else s.getV q := by
  induction k with
  | zero => simp [loadRegs]
  | succ k ih =>
    rw [loadRegs_succ, State.getV_setV, ih (by omega), loadRegs_effAddr, loadRegs_readByte]
    by_cases e : q = regOf k
    · simp [e, regOf_toNat (show k < 16 by omega)]
    · have : q.toNat ≠ k := fun h => e (by rw [← h, regOf_toNat_self])
      simp only [e, if_false]
      congr 1
      exact propext ⟨fun h => by omega, fun h => by omega⟩

/-- Storing digits changes memory and nothing else. -/
theorem storeDigits_eq (v : Byte) : storeDigits v s = { s with mem := (storeDigits v s).mem } := rfl

/-- Everything the stores of Fx33 do to memory (R133). -/
theorem storeDigits_readByte (v : Byte) (b : Word) :
    (storeDigits v s).readByte b =
      if cellOf b = cellOf (s.effAddr 2) then onesDigit v
      else if cellOf b = cellOf (s.effAddr 1) then tensDigit v
      else if cellOf b = cellOf (s.effAddr 0) then hundredsDigit v
      else s.readByte b := by
  simp [storeDigits, State.readByte_writeByte]

theorem storeDigits_memWf (v : Byte) (w : s.memWf) : (storeDigits v s).memWf :=
  State.memWf_writeByte _ _ (State.memWf_writeByte _ _ (State.memWf_writeByte _ _ w))

/-- Copying bytes changes memory and nothing else. -/
theorem copyBytes_eq (a : Nat) (bs : List Byte) : copyBytes a bs s = { s with mem := (copyBytes a bs s).mem } := by
  induction bs generalizing a s with
  | nil => rfl
  | cons b bs ih =>
    rw [copyBytes, ih]
    rfl

/-- Everything a load does to memory (20_memory.md R43): byte `i` goes to cell `a + i`, every other cell keeps its byte. -/
theorem copyBytes_readCell (a : Nat) (bs : List Byte) (c : Nat) :
    (copyBytes a bs s).readCell c =
      if h : a ≤ c ∧ c < a + bs.length then bs[c - a]'(by omega) else s.readCell c := by
  induction bs generalizing a s with
  | nil => rw [dif_neg (by simp)]; rfl
  | cons b bs ih =>
    rw [copyBytes, ih]
    simp only [List.length_cons]
    by_cases h1 : a + 1 ≤ c ∧ c < a + 1 + bs.length
    · rw [dif_pos h1, dif_pos (by omega)]
      have : c - a = (c - (a + 1)) + 1 := by omega
      simp [this]
    · rw [dif_neg h1, State.readCell_writeCell]
      by_cases h2 : c = a
      · subst h2; simp
      · rw [if_neg h2, dif_neg (by omega)]

theorem copyBytes_memWf (a : Nat) (bs : List Byte) (h : a + bs.length ≤ Config.memSize) (w : s.memWf) :
    (copyBytes a bs s).memWf := by
  induction bs generalizing a s with
  | nil => exact w
  | cons b bs ih =>
    simp only [List.length_cons] at h
    exact ih _ _ (by omega) (State.memWf_writeCell (by omega) _ w)

end Sys2Proof.Machine
end

