-- ==== Sys2Proof/Laws/HostOps.lean ====
section
/-! SUPPORT. What the host's operations do, case by case (20_memory.md R43, 40_cycle_fsm.md R77, 70_reset_and_hazards.md R210). -/

namespace Sys2Proof.Machine

variable (s : State)

theorem hostKeyPress_of_paused (k : Nibble) {x : RegNo} (h : s.run = .paused x) :
    hostKeyPress k s = { s.setV x (k.setWidth 8) with run := .running } := by simp only [hostKeyPress, h]

theorem hostKeyPress_of_running (k : Nibble) (h : s.run = .running) : hostKeyPress k s = s := by
  simp only [hostKeyPress, h]

theorem loadFits_iff (n : Nat) : loadFits n = true ↔ n + 0x200 ≤ 4096 := by
  rw [loadFits, decide_eq_true_iff]

theorem hostLoad_of_fits {bytes : List Byte} (h : s.loadAllowed = true) (f : bytes.length + 0x200 ≤ 4096) :
    hostLoad bytes s = .next { copyBytes Config.progBase bytes s with loadAllowed := false } := by
  rw [hostLoad, if_pos h, if_pos ((loadFits_iff _).mpr f)]

theorem hostLoad_of_long {bytes : List Byte} (h : s.loadAllowed = true) (f : 4096 < bytes.length + 0x200) :
    hostLoad bytes s = .next (s.emit (.loadRefused bytes.length)) := by
  rw [hostLoad, if_pos h, if_neg (fun g => by have := (loadFits_iff _).mp g; omega)]

theorem hostLoad_of_not_allowed (bytes : List Byte) (h : s.loadAllowed = false) :
    hostLoad bytes s = .refused .loadNotAdmitted := by
  rw [hostLoad, if_neg (by rw [h]; decide)]

/-- Where memory lists nothing, a cell has its reset content. -/
theorem readCell_of_mem_nil (h : s.mem = []) (a : Nat) : s.readCell a = unlisted s.font a := by
  rw [State.readCell, h]; rfl

theorem unlisted_font (font : Vector Byte Config.fontBytes) {a : Nat} (h : a < 80) : unlisted font a = font[a] :=
  dif_pos (show 0 ≤ a ∧ a - 0 < 80 from ⟨Nat.zero_le a, h⟩)

theorem unlisted_zero (font : Vector Byte Config.fontBytes) {a : Nat} (h : 80 ≤ a) : unlisted font a = 0 :=
  dif_neg (show ¬ (0 ≤ a ∧ a - 0 < 80) by omega)

/-- A frame buffer of zero rows is off everywhere. -/
theorem pixel_of_FB_zero (h : s.FB = Vector.replicate Config.fbHeight 0) (px py : Nat) : s.pixel px py = false :=
  (show s.pixel px py = s.clear.pixel px py by unfold State.pixel; rw [h]; rfl).trans (pixel_clear s px py)

end Sys2Proof.Machine
end

