-- ==== Sys2Proof/Laws/Decode.lean ====
section
/-! SUPPORT. The fields of a packed word, the masks of the opcode map on it, and the two bytes of a word. -/

namespace Sys2Proof

theorem fieldNnn_packNnn (t : BitVec 4) (a : Addr12) : fieldNnn (packNnn t a) = a := by
  apply BitVec.eq_of_getLsbD_eq
  intro i hi
  simp only [fieldNnn, packNnn, BitVec.getLsbD_extractLsb', BitVec.getLsbD_append]
  interval_cases i <;> simp

theorem fieldX_packXkk (t : BitVec 4) (x : RegNo) (k : Byte) : fieldX (packXkk t x k) = x := by
  apply BitVec.eq_of_getLsbD_eq
  intro i hi
  simp only [fieldX, packXkk, BitVec.getLsbD_extractLsb', BitVec.getLsbD_append]
  interval_cases i <;> simp

theorem fieldKk_packXkk (t : BitVec 4) (x : RegNo) (k : Byte) : fieldKk (packXkk t x k) = k := by
  apply BitVec.eq_of_getLsbD_eq
  intro i hi
  simp only [fieldKk, packXkk, BitVec.getLsbD_extractLsb', BitVec.getLsbD_append]
  interval_cases i <;> simp

theorem fieldX_packXyn (t : BitVec 4) (x y : RegNo) (n : BitVec 4) : fieldX (packXyn t x y n) = x := by
  apply BitVec.eq_of_getLsbD_eq
  intro i hi
  simp only [fieldX, packXyn, BitVec.getLsbD_extractLsb', BitVec.getLsbD_append]
  interval_cases i <;> simp

theorem fieldY_packXyn (t : BitVec 4) (x y : RegNo) (n : BitVec 4) : fieldY (packXyn t x y n) = y := by
  apply BitVec.eq_of_getLsbD_eq
  intro i hi
  simp only [fieldY, packXyn, BitVec.getLsbD_extractLsb', BitVec.getLsbD_append]
  interval_cases i <;> simp

theorem fieldN_packXyn (t : BitVec 4) (x y : RegNo) (n : BitVec 4) : fieldN (packXyn t x y n) = n := by
  apply BitVec.eq_of_getLsbD_eq
  intro i hi
  simp only [fieldN, packXyn, BitVec.getLsbD_extractLsb', BitVec.getLsbD_append]
  interval_cases i <;> simp

theorem fieldTop_packXyn (t : BitVec 4) (x y : RegNo) (n : BitVec 4) : fieldTop (packXyn t x y n) = t := by
  apply BitVec.eq_of_getLsbD_eq
  intro i hi
  simp only [fieldTop, packXyn, BitVec.getLsbD_extractLsb', BitVec.getLsbD_append]
  interval_cases i <;> simp

theorem fieldKk_packXyn (t : BitVec 4) (x y : RegNo) (n : BitVec 4) : fieldKk (packXyn t x y n) = y ++ n := by
  apply BitVec.eq_of_getLsbD_eq
  intro i hi
  simp only [fieldKk, packXyn, BitVec.getLsbD_extractLsb', BitVec.getLsbD_append]
  interval_cases i <;> simp

/-- Every word is made of its four digits (30_encoding.md R51). -/
theorem word_eq_packXyn (op : Word) : op = packXyn (fieldTop op) (fieldX op) (fieldY op) (fieldN op) := by
  apply BitVec.eq_of_getLsbD_eq
  intro i hi
  simp only [fieldTop, fieldX, fieldY, fieldN, packXyn, BitVec.getLsbD_extractLsb', BitVec.getLsbD_append]
  interval_cases i <;> simp

/-- The mask of a row that fixes the top digit. -/
theorem packNnn_and_top (t : BitVec 4) (a : Addr12) : packNnn t a &&& 0xF000 = t ++ (0 : BitVec 12) := by
  apply BitVec.eq_of_getLsbD_eq
  intro i hi
  simp only [packNnn, BitVec.getLsbD_and, BitVec.getLsbD_append]
  interval_cases i <;> simp

theorem packXkk_and_top (t : BitVec 4) (x : RegNo) (k : Byte) : packXkk t x k &&& 0xF000 = t ++ (0 : BitVec 12) := by
  apply BitVec.eq_of_getLsbD_eq
  intro i hi
  simp only [packXkk, BitVec.getLsbD_and, BitVec.getLsbD_append]
  interval_cases i <;> simp

/-- The mask of a row that fixes the top digit and the last two. -/
theorem packXkk_and_topKk (t : BitVec 4) (x : RegNo) (k : Byte) :
    packXkk t x k &&& 0xF0FF = t ++ ((0 : BitVec 4) ++ k) := by
  apply BitVec.eq_of_getLsbD_eq
  intro i hi
  simp only [packXkk, BitVec.getLsbD_and, BitVec.getLsbD_append]
  interval_cases i <;> simp

theorem packXyn_and_top (t : BitVec 4) (x y : RegNo) (n : BitVec 4) :
    packXyn t x y n &&& 0xF000 = t ++ (0 : BitVec 12) := by
  apply BitVec.eq_of_getLsbD_eq
  intro i hi
  simp only [packXyn, BitVec.getLsbD_and, BitVec.getLsbD_append]
  interval_cases i <;> simp

/-- The mask of a row that fixes the top digit and the last one. -/
theorem packXyn_and_topN (t : BitVec 4) (x y : RegNo) (n : BitVec 4) :
    packXyn t x y n &&& 0xF00F = t ++ ((0 : BitVec 8) ++ n) := by
  apply BitVec.eq_of_getLsbD_eq
  intro i hi
  simp only [packXyn, BitVec.getLsbD_and, BitVec.getLsbD_append]
  interval_cases i <;> simp

/-- An append as a sum, the way the patterns of 30_encoding.md R55 are written with digits. -/
theorem toNat_append_eq {m n : Nat} (a : BitVec m) (b : BitVec n) : (a ++ b).toNat = 2 ^ n * a.toNat + b.toNat := by
  rw [BitVec.toNat_append, ← Nat.shiftLeft_add_eq_or_of_lt b.isLt, Nat.shiftLeft_eq, Nat.mul_comm]

theorem packNnn_eq_ofNat (t : BitVec 4) (a : Addr12) : packNnn t a = BitVec.ofNat 16 (0x1000 * t.toNat + a.toNat) := by
  apply BitVec.eq_of_toNat_eq
  have h : (packNnn t a).toNat = 2 ^ 12 * t.toNat + a.toNat := toNat_append_eq t a
  rw [h, BitVec.toNat_ofNat]; omega

theorem packXkk_eq_ofNat (t : BitVec 4) (x : RegNo) (k : Byte) :
    packXkk t x k = BitVec.ofNat 16 (0x1000 * t.toNat + 0x100 * x.toNat + k.toNat) := by
  apply BitVec.eq_of_toNat_eq
  have h : (packXkk t x k).toNat = 2 ^ 12 * t.toNat + (x ++ k).toNat := toNat_append_eq t (x ++ k)
  rw [h, toNat_append_eq, BitVec.toNat_ofNat]; omega

theorem packXyn_eq_ofNat (t : BitVec 4) (x y : RegNo) (n : BitVec 4) :
    packXyn t x y n = BitVec.ofNat 16 (0x1000 * t.toNat + 0x100 * x.toNat + 0x10 * y.toNat + n.toNat) := by
  apply BitVec.eq_of_toNat_eq
  have h : (packXyn t x y n).toNat = 2 ^ 12 * t.toNat + (x ++ (y ++ n)).toNat := toNat_append_eq t (x ++ (y ++ n))
  have h' : (x ++ (y ++ n)).toNat = 2 ^ 8 * x.toNat + (y ++ n).toNat := toNat_append_eq x (y ++ n)
  rw [h, h', toNat_append_eq, BitVec.toNat_ofNat]; omega

/-- The word of two bytes as a number (20_memory.md R35). -/
theorem wordOf_toNat (hi lo : Byte) : (wordOf hi lo).toNat = 256 * hi.toNat + lo.toNat := toNat_append_eq hi lo

/-- The two bytes of a word, put together again (20_memory.md R35). -/
@[simp] theorem wordOf_bytes (w : Word) : wordOf (highByte w) (lowByte w) = w := by
  apply BitVec.eq_of_getLsbD_eq
  intro i h
  simp only [highByte, lowByte, wordOf, BitVec.getLsbD_extractLsb', BitVec.getLsbD_append]
  interval_cases i <;> simp

@[simp] theorem highByte_wordOf (hi lo : Byte) : highByte (wordOf hi lo) = hi := by
  apply BitVec.eq_of_getLsbD_eq
  intro i h
  simp only [highByte, wordOf, BitVec.getLsbD_extractLsb', BitVec.getLsbD_append]
  interval_cases i <;> simp

@[simp] theorem lowByte_wordOf (hi lo : Byte) : lowByte (wordOf hi lo) = lo := by
  apply BitVec.eq_of_getLsbD_eq
  intro i h
  simp only [lowByte, wordOf, BitVec.getLsbD_extractLsb', BitVec.getLsbD_append]
  interval_cases i <;> simp

/-- Decoding two bytes is decoding their word. -/
theorem decode_cons_cons (hi lo : Byte) (rest : List Byte) :
    decode (hi :: lo :: rest) = match decodeWord (wordOf hi lo) with
      | .ok i => .ok (i, rest)
      | .error e => .error e := rfl

/-- What a decoded word was decoded by: a row of the opcode map it matches. -/
theorem exists_row_of_decodeWord {op : Word} {i : Instr} (h : decodeWord op = .ok i) :
    ∃ r ∈ opcodeMap, rowMatches r op = true ∧ r.build op = i := by
  unfold decodeWord at h
  split at h
  · next r hr =>
    exact ⟨r, List.mem_of_find?_eq_some hr, (List.find?_some hr :), by injection h⟩
  · cases h

/-- The word a rejected word names is itself. -/
theorem eq_of_decodeWord_error {op : Word} {e : Reject} (h : decodeWord op = .error e) : e = .unrecognised op := by
  unfold decodeWord at h
  split at h
  · cases h
  · injection h with h; exact h.symm

end Sys2Proof
end

