-- ==== Sys2Proof/Laws/PerInstr.lean ====
section
/-! SUPPORT. Statements about every instruction as syntax, one lemma per constructor: its operands are well formed, and its word matches its own
row of the opcode map, which reads the same instruction back. -/

namespace Sys2Proof.Laws

open Sys2Proof

/-- The instruction is well formed (30_encoding.md R52). -/
def WellFormedOperands.Statement (i : Instr) : Prop := i.wellFormed = true

/-- The word of the instruction matches a row of the opcode map that builds this very instruction from it (30_encoding.md R55). -/
def EncodesInRow.Statement (i : Instr) : Prop :=
  ∃ r ∈ opcodeMap, rowMatches r (encodeWord i) = true ∧ r.build (encodeWord i) = i

/-- A row by its place in the opcode map shows the statement. -/
theorem EncodesInRow.of_row {i : Instr} (k : Nat) (hk : k < opcodeMap.length)
    (hm : rowMatches opcodeMap[k] (encodeWord i) = true) (hb : opcodeMap[k].build (encodeWord i) = i) :
    EncodesInRow.Statement i :=
  ⟨opcodeMap[k], List.getElem_mem hk, hm, hb⟩

theorem WellFormedOperands.cls : WellFormedOperands.Statement .cls := by
  rfl

theorem EncodesInRow.cls : EncodesInRow.Statement .cls :=
  EncodesInRow.of_row 0 (by decide) (by decide) rfl

theorem WellFormedOperands.ret : WellFormedOperands.Statement .ret := by
  rfl

theorem EncodesInRow.ret : EncodesInRow.Statement .ret :=
  EncodesInRow.of_row 1 (by decide) (by decide) rfl

theorem WellFormedOperands.jp (nnn : Addr12) : WellFormedOperands.Statement (.jp nnn) := by
  simp [WellFormedOperands.Statement, Instr.wellFormed, Instr.format, Instr.operands, Format.admits]; omega

theorem EncodesInRow.jp (nnn : Addr12) : EncodesInRow.Statement (.jp nnn) :=
  EncodesInRow.of_row 2 (by decide) (beq_iff_eq.mpr ((packNnn_and_top 1 nnn).trans (by decide)))
    (congrArg Instr.jp (fieldNnn_packNnn 1 nnn))

theorem WellFormedOperands.call (nnn : Addr12) : WellFormedOperands.Statement (.call nnn) := by
  simp [WellFormedOperands.Statement, Instr.wellFormed, Instr.format, Instr.operands, Format.admits]; omega

theorem EncodesInRow.call (nnn : Addr12) : EncodesInRow.Statement (.call nnn) :=
  EncodesInRow.of_row 3 (by decide) (beq_iff_eq.mpr ((packNnn_and_top 2 nnn).trans (by decide)))
    (congrArg Instr.call (fieldNnn_packNnn 2 nnn))

theorem WellFormedOperands.seVxKk (x : RegNo) (kk : Byte) : WellFormedOperands.Statement (.seVxKk x kk) := by
  simp [WellFormedOperands.Statement, Instr.wellFormed, Instr.format, Instr.operands, Format.admits]; omega

theorem EncodesInRow.seVxKk (x : RegNo) (kk : Byte) : EncodesInRow.Statement (.seVxKk x kk) :=
  EncodesInRow.of_row 4 (by decide) (beq_iff_eq.mpr ((packXkk_and_top 3 x kk).trans (by decide)))
    (congrArg₂ Instr.seVxKk (fieldX_packXkk 3 x kk) (fieldKk_packXkk 3 x kk))

theorem WellFormedOperands.sneVxKk (x : RegNo) (kk : Byte) : WellFormedOperands.Statement (.sneVxKk x kk) := by
  simp [WellFormedOperands.Statement, Instr.wellFormed, Instr.format, Instr.operands, Format.admits]; omega

theorem EncodesInRow.sneVxKk (x : RegNo) (kk : Byte) : EncodesInRow.Statement (.sneVxKk x kk) :=
  EncodesInRow.of_row 5 (by decide) (beq_iff_eq.mpr ((packXkk_and_top 4 x kk).trans (by decide)))
    (congrArg₂ Instr.sneVxKk (fieldX_packXkk 4 x kk) (fieldKk_packXkk 4 x kk))

theorem WellFormedOperands.seVxVy (x : RegNo) (y : RegNo) : WellFormedOperands.Statement (.seVxVy x y) := by
  simp [WellFormedOperands.Statement, Instr.wellFormed, Instr.format, Instr.operands, Format.admits]; omega

theorem EncodesInRow.seVxVy (x : RegNo) (y : RegNo) : EncodesInRow.Statement (.seVxVy x y) :=
  EncodesInRow.of_row 6 (by decide) (beq_iff_eq.mpr ((packXyn_and_topN 5 x y 0).trans (by decide)))
    (congrArg₂ Instr.seVxVy (fieldX_packXyn 5 x y 0) (fieldY_packXyn 5 x y 0))

theorem WellFormedOperands.ldVxKk (x : RegNo) (kk : Byte) : WellFormedOperands.Statement (.ldVxKk x kk) := by
  simp [WellFormedOperands.Statement, Instr.wellFormed, Instr.format, Instr.operands, Format.admits]; omega

theorem EncodesInRow.ldVxKk (x : RegNo) (kk : Byte) : EncodesInRow.Statement (.ldVxKk x kk) :=
  EncodesInRow.of_row 7 (by decide) (beq_iff_eq.mpr ((packXkk_and_top 6 x kk).trans (by decide)))
    (congrArg₂ Instr.ldVxKk (fieldX_packXkk 6 x kk) (fieldKk_packXkk 6 x kk))

theorem WellFormedOperands.addVxKk (x : RegNo) (kk : Byte) : WellFormedOperands.Statement (.addVxKk x kk) := by
  simp [WellFormedOperands.Statement, Instr.wellFormed, Instr.format, Instr.operands, Format.admits]; omega

theorem EncodesInRow.addVxKk (x : RegNo) (kk : Byte) : EncodesInRow.Statement (.addVxKk x kk) :=
  EncodesInRow.of_row 8 (by decide) (beq_iff_eq.mpr ((packXkk_and_top 7 x kk).trans (by decide)))
    (congrArg₂ Instr.addVxKk (fieldX_packXkk 7 x kk) (fieldKk_packXkk 7 x kk))

theorem WellFormedOperands.ldVxVy (x : RegNo) (y : RegNo) : WellFormedOperands.Statement (.ldVxVy x y) := by
  simp [WellFormedOperands.Statement, Instr.wellFormed, Instr.format, Instr.operands, Format.admits]; omega

theorem EncodesInRow.ldVxVy (x : RegNo) (y : RegNo) : EncodesInRow.Statement (.ldVxVy x y) :=
  EncodesInRow.of_row 9 (by decide) (beq_iff_eq.mpr ((packXyn_and_topN 8 x y 0).trans (by decide)))
    (congrArg₂ Instr.ldVxVy (fieldX_packXyn 8 x y 0) (fieldY_packXyn 8 x y 0))

theorem WellFormedOperands.or (x : RegNo) (y : RegNo) : WellFormedOperands.Statement (.or x y) := by
  simp [WellFormedOperands.Statement, Instr.wellFormed, Instr.format, Instr.operands, Format.admits]; omega

theorem EncodesInRow.or (x : RegNo) (y : RegNo) : EncodesInRow.Statement (.or x y) :=
  EncodesInRow.of_row 10 (by decide) (beq_iff_eq.mpr ((packXyn_and_topN 8 x y 1).trans (by decide)))
    (congrArg₂ Instr.or (fieldX_packXyn 8 x y 1) (fieldY_packXyn 8 x y 1))

theorem WellFormedOperands.and (x : RegNo) (y : RegNo) : WellFormedOperands.Statement (.and x y) := by
  simp [WellFormedOperands.Statement, Instr.wellFormed, Instr.format, Instr.operands, Format.admits]; omega

theorem EncodesInRow.and (x : RegNo) (y : RegNo) : EncodesInRow.Statement (.and x y) :=
  EncodesInRow.of_row 11 (by decide) (beq_iff_eq.mpr ((packXyn_and_topN 8 x y 2).trans (by decide)))
    (congrArg₂ Instr.and (fieldX_packXyn 8 x y 2) (fieldY_packXyn 8 x y 2))

theorem WellFormedOperands.xor (x : RegNo) (y : RegNo) : WellFormedOperands.Statement (.xor x y) := by
  simp [WellFormedOperands.Statement, Instr.wellFormed, Instr.format, Instr.operands, Format.admits]; omega

theorem EncodesInRow.xor (x : RegNo) (y : RegNo) : EncodesInRow.Statement (.xor x y) :=
  EncodesInRow.of_row 12 (by decide) (beq_iff_eq.mpr ((packXyn_and_topN 8 x y 3).trans (by decide)))
    (congrArg₂ Instr.xor (fieldX_packXyn 8 x y 3) (fieldY_packXyn 8 x y 3))

theorem WellFormedOperands.addVxVy (x : RegNo) (y : RegNo) : WellFormedOperands.Statement (.addVxVy x y) := by
  simp [WellFormedOperands.Statement, Instr.wellFormed, Instr.format, Instr.operands, Format.admits]; omega

theorem EncodesInRow.addVxVy (x : RegNo) (y : RegNo) : EncodesInRow.Statement (.addVxVy x y) :=
  EncodesInRow.of_row 13 (by decide) (beq_iff_eq.mpr ((packXyn_and_topN 8 x y 4).trans (by decide)))
    (congrArg₂ Instr.addVxVy (fieldX_packXyn 8 x y 4) (fieldY_packXyn 8 x y 4))

theorem WellFormedOperands.sub (x : RegNo) (y : RegNo) : WellFormedOperands.Statement (.sub x y) := by
  simp [WellFormedOperands.Statement, Instr.wellFormed, Instr.format, Instr.operands, Format.admits]; omega

theorem EncodesInRow.sub (x : RegNo) (y : RegNo) : EncodesInRow.Statement (.sub x y) :=
  EncodesInRow.of_row 14 (by decide) (beq_iff_eq.mpr ((packXyn_and_topN 8 x y 5).trans (by decide)))
    (congrArg₂ Instr.sub (fieldX_packXyn 8 x y 5) (fieldY_packXyn 8 x y 5))

theorem WellFormedOperands.shr (x : RegNo) (y : RegNo) : WellFormedOperands.Statement (.shr x y) := by
  simp [WellFormedOperands.Statement, Instr.wellFormed, Instr.format, Instr.operands, Format.admits]; omega

theorem EncodesInRow.shr (x : RegNo) (y : RegNo) : EncodesInRow.Statement (.shr x y) :=
  EncodesInRow.of_row 15 (by decide) (beq_iff_eq.mpr ((packXyn_and_topN 8 x y 6).trans (by decide)))
    (congrArg₂ Instr.shr (fieldX_packXyn 8 x y 6) (fieldY_packXyn 8 x y 6))

theorem WellFormedOperands.subn (x : RegNo) (y : RegNo) : WellFormedOperands.Statement (.subn x y) := by
  simp [WellFormedOperands.Statement, Instr.wellFormed, Instr.format, Instr.operands, Format.admits]; omega

theorem EncodesInRow.subn (x : RegNo) (y : RegNo) : EncodesInRow.Statement (.subn x y) :=
  EncodesInRow.of_row 16 (by decide) (beq_iff_eq.mpr ((packXyn_and_topN 8 x y 7).trans (by decide)))
    (congrArg₂ Instr.subn (fieldX_packXyn 8 x y 7) (fieldY_packXyn 8 x y 7))

theorem WellFormedOperands.shl (x : RegNo) (y : RegNo) : WellFormedOperands.Statement (.shl x y) := by
  simp [WellFormedOperands.Statement, Instr.wellFormed, Instr.format, Instr.operands, Format.admits]; omega

theorem EncodesInRow.shl (x : RegNo) (y : RegNo) : EncodesInRow.Statement (.shl x y) :=
  EncodesInRow.of_row 17 (by decide) (beq_iff_eq.mpr ((packXyn_and_topN 8 x y 0xE).trans (by decide)))
    (congrArg₂ Instr.shl (fieldX_packXyn 8 x y 0xE) (fieldY_packXyn 8 x y 0xE))

theorem WellFormedOperands.sneVxVy (x : RegNo) (y : RegNo) : WellFormedOperands.Statement (.sneVxVy x y) := by
  simp [WellFormedOperands.Statement, Instr.wellFormed, Instr.format, Instr.operands, Format.admits]; omega

theorem EncodesInRow.sneVxVy (x : RegNo) (y : RegNo) : EncodesInRow.Statement (.sneVxVy x y) :=
  EncodesInRow.of_row 18 (by decide) (beq_iff_eq.mpr ((packXyn_and_topN 9 x y 0).trans (by decide)))
    (congrArg₂ Instr.sneVxVy (fieldX_packXyn 9 x y 0) (fieldY_packXyn 9 x y 0))

theorem WellFormedOperands.ldINnn (nnn : Addr12) : WellFormedOperands.Statement (.ldINnn nnn) := by
  simp [WellFormedOperands.Statement, Instr.wellFormed, Instr.format, Instr.operands, Format.admits]; omega

theorem EncodesInRow.ldINnn (nnn : Addr12) : EncodesInRow.Statement (.ldINnn nnn) :=
  EncodesInRow.of_row 19 (by decide) (beq_iff_eq.mpr ((packNnn_and_top 0xA nnn).trans (by decide)))
    (congrArg Instr.ldINnn (fieldNnn_packNnn 0xA nnn))

theorem WellFormedOperands.jpV0 (nnn : Addr12) : WellFormedOperands.Statement (.jpV0 nnn) := by
  simp [WellFormedOperands.Statement, Instr.wellFormed, Instr.format, Instr.operands, Format.admits]; omega

theorem EncodesInRow.jpV0 (nnn : Addr12) : EncodesInRow.Statement (.jpV0 nnn) :=
  EncodesInRow.of_row 20 (by decide) (beq_iff_eq.mpr ((packNnn_and_top 0xB nnn).trans (by decide)))
    (congrArg Instr.jpV0 (fieldNnn_packNnn 0xB nnn))

theorem WellFormedOperands.rnd (x : RegNo) (kk : Byte) : WellFormedOperands.Statement (.rnd x kk) := by
  simp [WellFormedOperands.Statement, Instr.wellFormed, Instr.format, Instr.operands, Format.admits]; omega

theorem EncodesInRow.rnd (x : RegNo) (kk : Byte) : EncodesInRow.Statement (.rnd x kk) :=
  EncodesInRow.of_row 21 (by decide) (beq_iff_eq.mpr ((packXkk_and_top 0xC x kk).trans (by decide)))
    (congrArg₂ Instr.rnd (fieldX_packXkk 0xC x kk) (fieldKk_packXkk 0xC x kk))

theorem WellFormedOperands.drw (x : RegNo) (y : RegNo) (n : Nibble) : WellFormedOperands.Statement (.drw x y n) := by
  simp [WellFormedOperands.Statement, Instr.wellFormed, Instr.format, Instr.operands, Format.admits]; omega

theorem EncodesInRow.drw (x : RegNo) (y : RegNo) (n : Nibble) : EncodesInRow.Statement (.drw x y n) :=
  EncodesInRow.of_row 22 (by decide) (beq_iff_eq.mpr ((packXyn_and_top 0xD x y n).trans (by decide)))
    (by show Instr.drw (fieldX (packXyn 0xD x y n)) (fieldY (packXyn 0xD x y n)) (fieldN (packXyn 0xD x y n)) = _
        rw [fieldX_packXyn, fieldY_packXyn, fieldN_packXyn])

theorem WellFormedOperands.skp (x : RegNo) : WellFormedOperands.Statement (.skp x) := by
  simp [WellFormedOperands.Statement, Instr.wellFormed, Instr.format, Instr.operands, Format.admits]; omega

theorem EncodesInRow.skp (x : RegNo) : EncodesInRow.Statement (.skp x) :=
  EncodesInRow.of_row 23 (by decide) (beq_iff_eq.mpr ((packXkk_and_topKk 0xE x 0x9E).trans (by decide)))
    (congrArg Instr.skp (fieldX_packXkk 0xE x 0x9E))

theorem WellFormedOperands.sknp (x : RegNo) : WellFormedOperands.Statement (.sknp x) := by
  simp [WellFormedOperands.Statement, Instr.wellFormed, Instr.format, Instr.operands, Format.admits]; omega

theorem EncodesInRow.sknp (x : RegNo) : EncodesInRow.Statement (.sknp x) :=
  EncodesInRow.of_row 24 (by decide) (beq_iff_eq.mpr ((packXkk_and_topKk 0xE x 0xA1).trans (by decide)))
    (congrArg Instr.sknp (fieldX_packXkk 0xE x 0xA1))

theorem WellFormedOperands.ldVxDt (x : RegNo) : WellFormedOperands.Statement (.ldVxDt x) := by
  simp [WellFormedOperands.Statement, Instr.wellFormed, Instr.format, Instr.operands, Format.admits]; omega

theorem EncodesInRow.ldVxDt (x : RegNo) : EncodesInRow.Statement (.ldVxDt x) :=
  EncodesInRow.of_row 25 (by decide) (beq_iff_eq.mpr ((packXkk_and_topKk 0xF x 0x07).trans (by decide)))
    (congrArg Instr.ldVxDt (fieldX_packXkk 0xF x 0x07))

theorem WellFormedOperands.ldVxK (x : RegNo) : WellFormedOperands.Statement (.ldVxK x) := by
  simp [WellFormedOperands.Statement, Instr.wellFormed, Instr.format, Instr.operands, Format.admits]; omega

theorem EncodesInRow.ldVxK (x : RegNo) : EncodesInRow.Statement (.ldVxK x) :=
  EncodesInRow.of_row 26 (by decide) (beq_iff_eq.mpr ((packXkk_and_topKk 0xF x 0x0A).trans (by decide)))
    (congrArg Instr.ldVxK (fieldX_packXkk 0xF x 0x0A))

theorem WellFormedOperands.ldDtVx (x : RegNo) : WellFormedOperands.Statement (.ldDtVx x) := by
  simp [WellFormedOperands.Statement, Instr.wellFormed, Instr.format, Instr.operands, Format.admits]; omega

theorem EncodesInRow.ldDtVx (x : RegNo) : EncodesInRow.Statement (.ldDtVx x) :=
  EncodesInRow.of_row 27 (by decide) (beq_iff_eq.mpr ((packXkk_and_topKk 0xF x 0x15).trans (by decide)))
    (congrArg Instr.ldDtVx (fieldX_packXkk 0xF x 0x15))

theorem WellFormedOperands.ldStVx (x : RegNo) : WellFormedOperands.Statement (.ldStVx x) := by
  simp [WellFormedOperands.Statement, Instr.wellFormed, Instr.format, Instr.operands, Format.admits]; omega

theorem EncodesInRow.ldStVx (x : RegNo) : EncodesInRow.Statement (.ldStVx x) :=
  EncodesInRow.of_row 28 (by decide) (beq_iff_eq.mpr ((packXkk_and_topKk 0xF x 0x18).trans (by decide)))
    (congrArg Instr.ldStVx (fieldX_packXkk 0xF x 0x18))

theorem WellFormedOperands.addIVx (x : RegNo) : WellFormedOperands.Statement (.addIVx x) := by
  simp [WellFormedOperands.Statement, Instr.wellFormed, Instr.format, Instr.operands, Format.admits]; omega

theorem EncodesInRow.addIVx (x : RegNo) : EncodesInRow.Statement (.addIVx x) :=
  EncodesInRow.of_row 29 (by decide) (beq_iff_eq.mpr ((packXkk_and_topKk 0xF x 0x1E).trans (by decide)))
    (congrArg Instr.addIVx (fieldX_packXkk 0xF x 0x1E))

theorem WellFormedOperands.ldFVx (x : RegNo) : WellFormedOperands.Statement (.ldFVx x) := by
  simp [WellFormedOperands.Statement, Instr.wellFormed, Instr.format, Instr.operands, Format.admits]; omega

theorem EncodesInRow.ldFVx (x : RegNo) : EncodesInRow.Statement (.ldFVx x) :=
  EncodesInRow.of_row 30 (by decide) (beq_iff_eq.mpr ((packXkk_and_topKk 0xF x 0x29).trans (by decide)))
    (congrArg Instr.ldFVx (fieldX_packXkk 0xF x 0x29))

theorem WellFormedOperands.ldBVx (x : RegNo) : WellFormedOperands.Statement (.ldBVx x) := by
  simp [WellFormedOperands.Statement, Instr.wellFormed, Instr.format, Instr.operands, Format.admits]; omega

theorem EncodesInRow.ldBVx (x : RegNo) : EncodesInRow.Statement (.ldBVx x) :=
  EncodesInRow.of_row 31 (by decide) (beq_iff_eq.mpr ((packXkk_and_topKk 0xF x 0x33).trans (by decide)))
    (congrArg Instr.ldBVx (fieldX_packXkk 0xF x 0x33))

theorem WellFormedOperands.ldMemVx (x : RegNo) : WellFormedOperands.Statement (.ldMemVx x) := by
  simp [WellFormedOperands.Statement, Instr.wellFormed, Instr.format, Instr.operands, Format.admits]; omega

theorem EncodesInRow.ldMemVx (x : RegNo) : EncodesInRow.Statement (.ldMemVx x) :=
  EncodesInRow.of_row 32 (by decide) (beq_iff_eq.mpr ((packXkk_and_topKk 0xF x 0x55).trans (by decide)))
    (congrArg Instr.ldMemVx (fieldX_packXkk 0xF x 0x55))

theorem WellFormedOperands.ldVxMem (x : RegNo) : WellFormedOperands.Statement (.ldVxMem x) := by
  simp [WellFormedOperands.Statement, Instr.wellFormed, Instr.format, Instr.operands, Format.admits]; omega

theorem EncodesInRow.ldVxMem (x : RegNo) : EncodesInRow.Statement (.ldVxMem x) :=
  EncodesInRow.of_row 33 (by decide) (beq_iff_eq.mpr ((packXkk_and_topKk 0xF x 0x65).trans (by decide)))
    (congrArg Instr.ldVxMem (fieldX_packXkk 0xF x 0x65))

end Sys2Proof.Laws
end

