-- ==== Sys2Proof/Laws/Cycle.lean ====
section
/-! SUPPORT. What one step can be: the host operation that waits at a boundary, an instruction step, or a Paused slot; and what opening and
closing a slot leaves alone (40_cycle_fsm.md R70 to R76). -/

namespace Sys2Proof.Machine

variable (s : State)

theorem onNext_eq_next {f : State → State} {o : Host.Outcome State Fault Refusal} {t : State} (h : onNext f o = .next t) :
    ∃ u, o = .next u ∧ t = f u := by
  cases o with
  | next u => exact ⟨u, rfl, by simpa [onNext] using h.symm⟩
  | fault r => simp [onNext] at h
  | refused r => simp [onNext] at h

theorem onNext_eq_refused {f : State → State} {o : Host.Outcome State Fault Refusal} {r : Refusal}
    (h : onNext f o = .refused r) : o = .refused r := by
  cases o with
  | next u => simp [onNext] at h
  | fault r => simp [onNext] at h
  | refused r => simpa [onNext] using h

/-- A host operation waits exactly at a boundary, at the head of the queue. -/
theorem pendingOp_eq_some {o : HostOp} {t : State} :
    s.pendingOp = some (o, t) ↔
      s.slot = 0 ∧ ∃ q, s.hostQueue = .op o :: q ∧ t = s.withQueue q := by
  unfold State.pendingOp
  split
  · next h0 =>
    split
    · next o' q hq =>
      constructor
      · intro h; injection h with h; injection h with h1 h2; subst h1; exact ⟨h0, q, hq, h2.symm⟩
      · rintro ⟨-, q', h1, h2⟩
        rw [hq] at h1; injection h1 with h1 h3; injection h1 with h1; subst h1 h3 h2; rfl
    · next hq =>
      constructor
      · intro h; cases h
      · rintro ⟨-, q', h1, -⟩; exact absurd h1 (hq _ _)
  · next h0 =>
    constructor
    · intro h; cases h
    · intro h; exact absurd h.1 h0

theorem step_of_op {o : HostOp} {q : List HostEvent} (h0 : s.slot = 0) (hq : s.hostQueue = .op o :: q) :
    step s = hostOp o (s.withQueue q) := by
  have := (pendingOp_eq_some s).mpr ⟨h0, q, hq, rfl⟩
  simp [step, cycle, this]

theorem step_of_slot (h : s.pendingOp = none) : step s = onNext State.closeSlot (slotStep s.openSlot) := by
  simp [step, cycle, h]

/-- What a step that answers a next state is. -/
theorem step_cases {t : State} (h : step s = .next t) :
    (∃ o q, s.slot = 0 ∧ s.hostQueue = .op o :: q ∧ hostOp o (s.withQueue q) = .next t) ∨
    (s.pendingOp = none ∧ ∃ u, slotStep s.openSlot = .next u ∧ t = u.closeSlot) := by
  cases hp : s.pendingOp with
  | some p =>
    obtain ⟨o, u⟩ := p
    obtain ⟨h0, q, hq, -⟩ := (pendingOp_eq_some s).mp hp
    rw [step_of_op s h0 hq] at h
    exact .inl ⟨o, q, h0, hq, h⟩
  | none =>
    rw [step_of_slot s hp] at h
    exact .inr ⟨rfl, onNext_eq_next h⟩

/-- What a slot that answers a next state is (R71, R73, R74). -/
theorem slotStep_cases {t : State} (h : slotStep s = .next t) :
    (∃ i, s.run = .running ∧ decodeWord s.fetchWord = .ok i ∧ exec i s.advance = .next t) ∨
    (∃ e, s.run = .running ∧ decodeWord s.fetchWord = .error e ∧ t = s.advance.emit (.badOpcode s.fetchWord s.pc)) ∨
    (∃ x, s.run = .paused x ∧ t = s) := by
  unfold slotStep at h
  split at h
  · next hr =>
    unfold instructionStep at h
    split at h
    · next i hi => exact .inl ⟨i, hr, hi, h⟩
    · next e he => injection h with h; exact .inr (.inl ⟨e, hr, he, h.symm⟩)
  · next x hr => injection h with h; exact .inr (.inr ⟨x, hr, h.symm⟩)

/-- Opening a slot touches the report port, and at slot 0 the host's queue and the time for a load. -/
theorem openSlot_eq : s.openSlot = { s with
    report := none
    hostQueue := if s.slot = 0 then takeTick s.hostQueue else s.hostQueue
    loadAllowed := if s.slot = 0 then false else s.loadAllowed } := by
  unfold State.openSlot
  split <;> rfl

@[simp] theorem openSlot_V : s.openSlot.V = s.V := by rw [openSlot_eq]
@[simp] theorem openSlot_I : s.openSlot.I = s.I := by rw [openSlot_eq]
@[simp] theorem openSlot_pc : s.openSlot.pc = s.pc := by rw [openSlot_eq]
@[simp] theorem openSlot_stack : s.openSlot.stack = s.stack := by rw [openSlot_eq]
@[simp] theorem openSlot_DT : s.openSlot.DT = s.DT := by rw [openSlot_eq]
@[simp] theorem openSlot_ST : s.openSlot.ST = s.ST := by rw [openSlot_eq]
@[simp] theorem openSlot_FB : s.openSlot.FB = s.FB := by rw [openSlot_eq]
@[simp] theorem openSlot_mem : s.openSlot.mem = s.mem := by rw [openSlot_eq]
@[simp] theorem openSlot_run : s.openSlot.run = s.run := by rw [openSlot_eq]
@[simp] theorem openSlot_tone : s.openSlot.tone = s.tone := by rw [openSlot_eq]
@[simp] theorem openSlot_font : s.openSlot.font = s.font := by rw [openSlot_eq]
@[simp] theorem openSlot_keys : s.openSlot.keys = s.keys := by rw [openSlot_eq]
@[simp] theorem openSlot_slot : s.openSlot.slot = s.slot := by rw [openSlot_eq]
@[simp] theorem openSlot_report : s.openSlot.report = none := by rw [openSlot_eq]
@[simp] theorem openSlot_rndInput : s.openSlot.rndInput = s.rndInput := by rw [openSlot_eq]
@[simp] theorem openSlot_rndDrawn : s.openSlot.rndDrawn = s.rndDrawn := by rw [openSlot_eq]
@[simp] theorem openSlot_fetchWord : s.openSlot.fetchWord = s.fetchWord := by rw [openSlot_eq]; rfl
@[simp] theorem openSlot_readByte (a : Word) : s.openSlot.readByte a = s.readByte a := by rw [openSlot_eq]; rfl
@[simp] theorem openSlot_getV (r : RegNo) : s.openSlot.getV r = s.getV r := by rw [openSlot_eq]; rfl

theorem lastSlot_iff : s.lastSlot = true ↔ s.slot.val = 9 := by
  simp [State.lastSlot, Config.slotsPerTick]

/-- Closing a slot that is not the last. -/
theorem closeSlot_of_ne_nine (h : s.slot.val ≠ 9) : s.closeSlot = { s with slot := s.slot + 1 } := by
  have : s.lastSlot = false := by rw [← Bool.not_eq_true, lastSlot_iff]; exact h
  simp [State.closeSlot, this]

/-- Closing the last slot of a tick-group. -/
theorem closeSlot_of_nine (h : s.slot.val = 9) : s.closeSlot = { s.endGroup with slot := 0 } := by
  have hl : s.lastSlot = true := (lastSlot_iff s).mpr h
  have h0 : s.slot + 1 = 0 := by
    apply Fin.ext
    simp [Fin.val_add, h]
  simp [State.closeSlot, hl, h0]

theorem succ_slot_ne_zero (h : s.slot.val ≠ 9) : s.slot + 1 ≠ 0 := by
  intro e
  have e := congrArg Fin.val e
  simp only [Fin.val_add, Fin.val_zero] at e
  have := s.slot.isLt
  simp [Config.slotsPerTick] at e this
  omega

@[simp] theorem closeSlot_V : s.closeSlot.V = s.V := by unfold State.closeSlot; split <;> rfl
@[simp] theorem closeSlot_I : s.closeSlot.I = s.I := by unfold State.closeSlot; split <;> rfl
@[simp] theorem closeSlot_pc : s.closeSlot.pc = s.pc := by unfold State.closeSlot; split <;> rfl
@[simp] theorem closeSlot_stack : s.closeSlot.stack = s.stack := by unfold State.closeSlot; split <;> rfl
@[simp] theorem closeSlot_FB : s.closeSlot.FB = s.FB := by unfold State.closeSlot; split <;> rfl
@[simp] theorem closeSlot_mem : s.closeSlot.mem = s.mem := by unfold State.closeSlot; split <;> rfl
@[simp] theorem closeSlot_run : s.closeSlot.run = s.run := by unfold State.closeSlot; split <;> rfl
@[simp] theorem closeSlot_font : s.closeSlot.font = s.font := by unfold State.closeSlot; split <;> rfl
@[simp] theorem closeSlot_keys : s.closeSlot.keys = s.keys := by unfold State.closeSlot; split <;> rfl
@[simp] theorem closeSlot_hostQueue : s.closeSlot.hostQueue = s.hostQueue := by unfold State.closeSlot; split <;> rfl
@[simp] theorem closeSlot_loadAllowed : s.closeSlot.loadAllowed = s.loadAllowed := by unfold State.closeSlot; split <;> rfl
@[simp] theorem closeSlot_report : s.closeSlot.report = s.report := by unfold State.closeSlot; split <;> rfl
@[simp] theorem closeSlot_rndInput : s.closeSlot.rndInput = s.rndInput := by unfold State.closeSlot; split <;> rfl
@[simp] theorem closeSlot_rndDrawn : s.closeSlot.rndDrawn = s.rndDrawn := by unfold State.closeSlot; split <;> rfl

/-- One counter's tick as subtraction on numbers, which stops at 0 (45_timers_keys.md R170). -/
theorem countDown_toNat (v : Byte) : (countDown v).toNat = v.toNat - 1 := by
  unfold countDown
  split
  · next h =>
    have := v.isLt
    rw [BitVec.toNat_sub_of_le (by rw [BitVec.le_def]; exact h)]
    rfl
  · omega

/-- One step of a run of any core. -/
theorem coreRun_succ (M : Host.Core) (k : Nat) (s : M.State) :
    M.run (k + 1) s = match M.step s with
      | .next t => M.run k t
      | .fault r => .fault r
      | .refused r => .refused r := by
  cases h : M.step s <;> simp [Host.Core.run, h]

/-- One step of a run of this machine. -/
theorem core_run_succ (k : Nat) :
    Sys2Proof.core.run (k + 1) s = match step s with
      | .next t => Sys2Proof.core.run k t
      | .fault r => .fault r
      | .refused r => .refused r := by
  have e : Sys2Proof.core.step s = step s := rfl
  cases h : step s <;> rw [h] at e <;> simp [Host.Core.run, e]

end Sys2Proof.Machine
end

