-- ==== Sys2Proof/Tests/Slice0.lean ====
section
/-! SUPPORT. The model's own tests. Expected results come from spec/95_test_vectors.md (named B-.. or A.. in the comments) or from the spec's encoding
and address tables. The theorems named witness_.. show a state and operands that meet the hypotheses of a statement. -/

namespace Sys2Proof.Tests

open Sys2Proof Sys2Proof.Machine Sys2Proof.Safety

/-- The machine goes on to a state that passes the check. -/
def after (o : Host.Outcome State Fault Refusal) (check : State → Bool) : Bool :=
  match o with
  | .next t => check t
  | .fault _ => false
  | .refused _ => false

/-- The machine stops with this model fault. -/
def stops (o : Host.Outcome State Fault Refusal) (f : Fault) : Bool :=
  match o with
  | .next _ => false
  | .fault g => decide (g = f)
  | .refused _ => false

/-- The machine refuses with this name. -/
def refuses (o : Host.Outcome State Fault Refusal) (r : Refusal) : Bool :=
  match o with
  | .next _ => false
  | .fault _ => false
  | .refused q => decide (q = r)

/-- The reset state with some registers changed. -/
def regs (l : List (RegNo × Byte)) : State := l.foldl (fun t p => t.setV p.1 p.2) .reset

/-- A state with bytes in memory from a cell upward, and `I` at that cell. -/
def bytesAt (a : Nat) (bytes : List Byte) (s : State) : State :=
  { copyBytes a bytes s with I := BitVec.ofNat 16 a }

/-- A state with `pc` at an address. -/
def pcAt (a : Word) (s : State) : State := { s with pc := a }

/-- One step with this word as the next instruction. -/
def run1 (w : Nat) (s : State) : Host.Outcome State Fault Refusal := step (s.withFetchWord 16 w)

/-- The reset state with this host operation at the head of the queue. -/
def hosted (o : HostOp) (s : State) : State := { s with hostQueue := [.op o] }

/-! WellFormed: each check refuses a term that breaks it (30_encoding.md R51) -/

theorem test_wellFormed_fixed_arity : Format.admits .fixed [0] = false := by decide

theorem test_wellFormed_nnn_width : Format.admits .nnn [4096] = false ∧ Format.admits .nnn [4095] = true := by decide

theorem test_wellFormed_nnn_arity : Format.admits .nnn [] = false := by decide

theorem test_wellFormed_xkk_register : Format.admits .xkk [16, 0] = false ∧ Format.admits .xkk [15, 255] = true := by decide

theorem test_wellFormed_xkk_immediate : Format.admits .xkk [0, 256] = false := by decide

theorem test_wellFormed_xkk_arity : Format.admits .xkk [0] = false := by decide

theorem test_wellFormed_xy_first : Format.admits .xy [16, 0] = false ∧ Format.admits .xy [15, 15] = true := by decide

theorem test_wellFormed_xy_second : Format.admits .xy [0, 16] = false := by decide

theorem test_wellFormed_xy_arity : Format.admits .xy [0, 0, 0] = false := by decide

theorem test_wellFormed_xyn_first : Format.admits .xyn [16, 0, 0] = false ∧ Format.admits .xyn [15, 15, 15] = true := by decide

theorem test_wellFormed_xyn_second : Format.admits .xyn [0, 16, 0] = false := by decide

theorem test_wellFormed_xyn_rows : Format.admits .xyn [0, 0, 16] = false := by decide

theorem test_wellFormed_xyn_arity : Format.admits .xyn [0, 0] = false := by decide

theorem test_wellFormed_x_width : Format.admits .x [16] = false ∧ Format.admits .x [15] = true := by decide

theorem test_wellFormed_x_arity : Format.admits .x [0, 0] = false := by decide

/-! Decode: one word of every row, its bits written out from the pattern of 30_encoding.md R55 -/

theorem test_decode_cls : decodeTableWord 16 0b0000_0000_1110_0000 = some .cls := by decide

theorem test_decode_ret : decodeTableWord 16 0b0000_0000_1110_1110 = some .ret := by decide

theorem test_decode_jp : decodeTableWord 16 0b0001_1010_1011_1100 = some (.jp 0xABC) := by decide

theorem test_decode_call : decodeTableWord 16 0b0010_0011_0000_0000 = some (.call 0x300) := by decide

theorem test_decode_seVxKk : decodeTableWord 16 0b0011_1010_0101_1100 = some (.seVxKk 0xA 0x5C) := by decide

theorem test_decode_sneVxKk : decodeTableWord 16 0b0100_0010_0001_0001 = some (.sneVxKk 2 0x11) := by decide

theorem test_decode_seVxVy : decodeTableWord 16 0b0101_0011_0100_0000 = some (.seVxVy 3 4) := by decide

theorem test_decode_ldVxKk : decodeTableWord 16 0b0110_1010_1011_1100 = some (.ldVxKk 0xA 0xBC) := by decide

theorem test_decode_addVxKk : decodeTableWord 16 0b0111_0001_1111_1111 = some (.addVxKk 1 0xFF) := by decide

theorem test_decode_ldVxVy : decodeTableWord 16 0b1000_0001_0010_0000 = some (.ldVxVy 1 2) := by decide

theorem test_decode_or : decodeTableWord 16 0b1000_0011_0100_0001 = some (.or 3 4) := by decide

theorem test_decode_and : decodeTableWord 16 0b1000_0101_0110_0010 = some (.and 5 6) := by decide

theorem test_decode_xor : decodeTableWord 16 0b1000_0111_1000_0011 = some (.xor 7 8) := by decide

theorem test_decode_addVxVy : decodeTableWord 16 0b1000_1001_1010_0100 = some (.addVxVy 9 0xA) := by decide

theorem test_decode_sub : decodeTableWord 16 0b1000_1011_1100_0101 = some (.sub 0xB 0xC) := by decide

theorem test_decode_shr : decodeTableWord 16 0b1000_1101_1110_0110 = some (.shr 0xD 0xE) := by decide

theorem test_decode_subn : decodeTableWord 16 0b1000_1111_0001_0111 = some (.subn 0xF 1) := by decide

theorem test_decode_shl : decodeTableWord 16 0b1000_0010_0011_1110 = some (.shl 2 3) := by decide

theorem test_decode_sneVxVy : decodeTableWord 16 0b1001_0011_0100_0000 = some (.sneVxVy 3 4) := by decide

theorem test_decode_ldINnn : decodeTableWord 16 0b1010_0010_0000_1110 = some (.ldINnn 0x20E) := by decide

theorem test_decode_jpV0 : decodeTableWord 16 0b1011_1111_1111_1111 = some (.jpV0 0xFFF) := by decide

theorem test_decode_rnd : decodeTableWord 16 0b1100_0011_0000_1111 = some (.rnd 3 0x0F) := by decide

theorem test_decode_drw : decodeTableWord 16 0b1101_0111_1010_0101 = some (.drw 7 0xA 5) := by decide

theorem test_decode_skp : decodeTableWord 16 0b1110_0101_1001_1110 = some (.skp 5) := by decide

theorem test_decode_sknp : decodeTableWord 16 0b1110_0110_1010_0001 = some (.sknp 6) := by decide

theorem test_decode_ldVxDt : decodeTableWord 16 0b1111_0011_0000_0111 = some (.ldVxDt 3) := by decide

theorem test_decode_ldVxK : decodeTableWord 16 0b1111_0001_0000_1010 = some (.ldVxK 1) := by decide

theorem test_decode_ldDtVx : decodeTableWord 16 0b1111_0100_0001_0101 = some (.ldDtVx 4) := by decide

theorem test_decode_ldStVx : decodeTableWord 16 0b1111_0101_0001_1000 = some (.ldStVx 5) := by decide

theorem test_decode_addIVx : decodeTableWord 16 0b1111_0010_0001_1110 = some (.addIVx 2) := by decide

theorem test_decode_ldFVx : decodeTableWord 16 0b1111_0001_0010_1001 = some (.ldFVx 1) := by decide

theorem test_decode_ldBVx : decodeTableWord 16 0b1111_1000_0011_0011 = some (.ldBVx 8) := by decide

theorem test_decode_ldMemVx : decodeTableWord 16 0b1111_1001_0101_0101 = some (.ldMemVx 9) := by decide

theorem test_decode_ldVxMem : decodeTableWord 16 0b1111_1010_0110_0101 = some (.ldVxMem 0xA) := by decide

/-- B-E1: the byte at the lower address is the high byte. -/
theorem test_decode_bytes : decode [0x12, 0x34, 0x56] = .ok (.jp 0x234, [0x56]) := rfl

theorem test_decode_truncated : decode [0x12] = .error .truncated ∧ decode [] = .error .truncated := ⟨rfl, rfl⟩

/-- B-E5. -/
theorem test_decode_unrecognised :
    ([0x00E1, 0x0123, 0x5121, 0x8128, 0x812F, 0x9121, 0xE19F, 0xE100, 0xF100, 0xF166] : List Nat).all (fun w => decodeTableWord 16 w == none) = true := by decide

/-- B-E6. -/
theorem test_decode_recognised :
    ([0x00E0, 0x00EE, 0x5120, 0x812E, 0x9120, 0xE19E, 0xE1A1, 0xF165] : List Nat).all (fun w => decodeTableWord 16 w != none) = true := by decide

theorem test_encode_drw : encode (.drw 7 0xA 5) = [0xD7, 0xA5] := by decide

theorem test_encode_skp : encode (.skp 5) = [0xE5, 0x9E] := by decide

/-! Control transfer (B-C) -/

/-- B-C1. -/
theorem test_jp : after (run1 0x1234 .reset) (fun t => t.pc == 0x234) = true := by decide

/-- B-C3. -/
theorem test_call : after (run1 0x2300 (pcAt 0x204 .reset)) (fun t => t.stack == [0x206] && t.pc == 0x300) = true := by decide

/-- B-C7. -/
theorem test_call_full : stops (run1 0x2300 { State.reset with stack := List.replicate 16 0x400 }) (.stackOverflow 0x200) = true := by decide

/-- B-C5. -/
theorem test_ret :
    after (run1 0x00EE { pcAt 0x400 .reset with stack := [0x304, 0x206] }) (fun t => t.stack == [0x206] && t.pc == 0x304) = true := by decide

/-- B-C6. -/
theorem test_ret_empty : stops (run1 0x00EE .reset) (.stackUnderflow 0x200) = true := by decide

/-- B-C10. -/
theorem test_jpV0 : after (run1 0xBFFF (regs [(0, 0xFF)])) (fun t => t.pc == 0x10FE) = true := by decide

/-- B-C11. -/
theorem test_seVxKk : after (run1 0x3100 (pcAt 0x208 .reset)) (fun t => t.pc == 0x20C) = true := by decide

/-- B-C22. -/
theorem test_seVxKk_wraps : after (run1 0x3000 (pcAt 0xFFFC .reset)) (fun t => t.pc == 0) = true := by decide

/-- B-C13. -/
theorem test_sneVxKk : after (run1 0x4211 (regs [(2, 0x10)])) (fun t => t.pc == 0x204) = true := by decide

/-- B-C14. -/
theorem test_sneVxKk_equal : after (run1 0x4210 (regs [(2, 0x10)])) (fun t => t.pc == 0x202) = true := by decide

/-- B-C15. -/
theorem test_seVxVy : after (run1 0x5340 (regs [(3, 0x7F), (4, 0x7F)])) (fun t => t.pc == 0x204) = true := by decide

/-- B-C16. -/
theorem test_seVxVy_differ : after (run1 0x5340 (regs [(3, 1), (4, 2)])) (fun t => t.pc == 0x202) = true := by decide

/-- B-C19. -/
theorem test_sneVxVy : after (run1 0x9340 (regs [(3, 1), (4, 2)])) (fun t => t.pc == 0x204) = true := by decide

/-- B-C20. -/
theorem test_sneVxVy_equal : after (run1 0x9340 (regs [(3, 1), (4, 1)])) (fun t => t.pc == 0x202) = true := by decide

/-! Arithmetic, logic, shift, random (B-A) -/

/-- B-A1. -/
theorem test_ldVxKk : after (run1 0x6ABC .reset) (fun t => t.getV 0xA == 0xBC) = true := by decide

/-- A2. -/
theorem test_addVxKk : after (run1 0x7001 (regs [(0, 0xFF), (0xF, 0x5A)])) (fun t => t.getV 0 == 0 && t.getV 0xF == 0x5A) = true := by decide

/-- B-A4. -/
theorem test_ldVxVy : after (run1 0x8120 (regs [(2, 0x9A)])) (fun t => t.getV 1 == 0x9A) = true := by decide

/-- B-A5. -/
theorem test_or : after (run1 0x8011 (regs [(0, 0x0F), (1, 0xF0)])) (fun t => t.getV 0 == 0xFF) = true := by decide

/-- B-A6. -/
theorem test_and : after (run1 0x8012 (regs [(0, 0x3C), (1, 0x0F)])) (fun t => t.getV 0 == 0x0C) = true := by decide

/-- B-A7. -/
theorem test_xor : after (run1 0x8013 (regs [(0, 0xFF), (1, 0x0F)])) (fun t => t.getV 0 == 0xF0) = true := by decide

/-- B-A9. -/
theorem test_addVxVy_no_carry : after (run1 0x8014 (regs [(0, 0x80), (1, 0x7F)])) (fun t => t.getV 0 == 0xFF && t.getV 0xF == 0) = true := by decide

/-- B-A12. -/
theorem test_addVxVy_flag_operand : after (run1 0x80F4 (regs [(0, 0xFF), (0xF, 2)])) (fun t => t.getV 0 == 1 && t.getV 0xF == 1) = true := by decide

/-- B-A14. -/
theorem test_sub_equal : after (run1 0x8015 (regs [(0, 5), (1, 5)])) (fun t => t.getV 0 == 0 && t.getV 0xF == 0) = true := by decide

/-- B-A17. -/
theorem test_sub_flag_destination : after (run1 0x8F15 (regs [(0xF, 9), (1, 4)])) (fun t => t.getV 0xF == 0xFD) = true := by decide

/-- B-A22. -/
theorem test_shr :
    after (run1 0x8016 (regs [(0, 0xFE), (1, 0x55)])) (fun t => t.getV 0 == 0x7F && t.getV 0xF == 0 && t.getV 1 == 0x55) = true := by decide

/-- B-A24. -/
theorem test_shr_flag_destination : after (run1 0x8F16 (regs [(0xF, 0xFF)])) (fun t => t.getV 0xF == 0) = true := by decide

/-- B-A26. -/
theorem test_subn : after (run1 0x8017 (regs [(0, 9), (1, 4)])) (fun t => t.getV 0 == 0xFB && t.getV 0xF == 0) = true := by decide

/-- B-A30. -/
theorem test_subn_flag_operand : after (run1 0x80F7 (regs [(0, 2), (0xF, 9)])) (fun t => t.getV 0 == 0xFF && t.getV 0xF == 1) = true := by decide

/-- B-A32. -/
theorem test_shl : after (run1 0x801E (regs [(0, 0x81)])) (fun t => t.getV 0 == 2 && t.getV 0xF == 1) = true := by decide

/-- B-A35. -/
theorem test_shl_flag_destination : after (run1 0x8F1E (regs [(0xF, 0x80)])) (fun t => t.getV 0xF == 2) = true := by decide

/-- B-A37. -/
theorem test_rnd :
    after (run1 0xC30F { State.reset with rndInput := [0xA7, 0x11] })
      (fun t => t.getV 3 == 7 && t.rndInput == [0x11] && t.rndDrawn == 0) = true := by decide

/-! Index register and memory (B-M) -/

/-- B-M1. -/
theorem test_ldINnn : after (run1 0xA300 .reset) (fun t => t.I == 0x300) = true := by decide

/-- B-M4. -/
theorem test_addIVx : after (run1 0xF01E { regs [(0, 2)] with I := 0xFFFF }) (fun t => t.I == 1) = true := by decide

/-- B-M7. -/
theorem test_ldFVx : after (run1 0xF129 (regs [(1, 0xFF)])) (fun t => t.I == 0x4FB) = true := by decide

/-- B-M8. -/
theorem test_ldBVx :
    after (run1 0xF033 { regs [(0, 254)] with I := 0x300 })
      (fun t => t.readByte 0x300 == 2 && t.readByte 0x301 == 5 && t.readByte 0x302 == 4) = true := by decide

/-- B-M10. -/
theorem test_ldBVx_wraps :
    after (run1 0xF033 { regs [(0, 255)] with I := 0xFFF }) (fun t => t.readByte 0xFFF == 2 && t.readByte 0 == 5 && t.readByte 1 == 5) = true := by decide

/-- B-M12. -/
theorem test_ldMemVx :
    after (run1 0xF155 { regs [(0, 2), (1, 5), (2, 9)] with I := 0x304 })
      (fun t => t.readByte 0x304 == 2 && t.readByte 0x305 == 5 && t.readByte 0x306 == 0 && t.I == 0x304) = true := by decide

/-- B-M14. -/
theorem test_ldVxMem :
    after (run1 0xF265 (bytesAt 0x300 [2, 5, 4, 7] .reset))
      (fun t => t.getV 0 == 2 && t.getV 1 == 5 && t.getV 2 == 4 && t.getV 3 == 0 && t.I == 0x300) = true := by decide

/-- B-M15, which rests on the parameter FONT (log 6). -/
theorem test_ldVxMem_font : after (run1 0xF465 .reset) (fun t => t.getV 0 == 0xF0 && t.getV 1 == 0x90 && t.getV 4 == 0xF0) = true := by decide

/-! Display (B-D) -/

/-- B-D11. -/
theorem test_cls : after (run1 0x00E0 (State.reset.flipPixel 3 5)) (fun t => !t.pixel 3 5 && t.getV 0xF == 0) = true := by decide

/-- B-D3. -/
theorem test_drw_wraps :
    after (run1 0xD012 (bytesAt 0x300 [0xC0, 0x81] (regs [(0, 126), (1, 63)])))
      (fun t => t.pixel 126 63 && t.pixel 127 63 && t.pixel 126 0 && t.pixel 5 0 && !t.pixel 127 0 && t.getV 0xF == 1) = true := by decide

/-- B-D8. -/
theorem test_drw_flag_origin :
    after (run1 0xDF11 (bytesAt 0x300 [0x80] (regs [(0xF, 9), (1, 2)]))) (fun t => t.pixel 0 2 && !t.pixel 9 2 && t.getV 0xF == 1) = true := by decide

/-! Timers, keys, wait (B-T) -/

/-- B-T1. -/
theorem test_ldVxDt : after (run1 0xF307 { State.reset with DT := 0x2A }) (fun t => t.getV 3 == 0x2A && t.DT == 0x2A) = true := by decide

/-- B-T2. -/
theorem test_ldDtVx : after (run1 0xF015 (regs [(0, 3)])) (fun t => t.DT == 3) = true := by decide

/-- B-T3. -/
theorem test_ldStVx : after (run1 0xF418 (regs [(4, 0x10)])) (fun t => t.ST == 0x10 && t.tone == false) = true := by decide

/-- B-T9. -/
theorem test_skp : after (run1 0xE59E { regs [(5, 0x0A)] with keys := 0x0400 }) (fun t => t.pc == 0x204) = true := by decide

/-- B-T13. -/
theorem test_skp_key_modulo : after (run1 0xE59E { regs [(5, 0x1A)] with keys := 0x0400 }) (fun t => t.pc == 0x204) = true := by decide

/-- B-T11. -/
theorem test_sknp : after (run1 0xE5A1 (regs [(5, 0x0A)])) (fun t => t.pc == 0x204) = true := by decide

/-- B-T12. -/
theorem test_sknp_held : after (run1 0xE5A1 { regs [(5, 0x0A)] with keys := 0x0400 }) (fun t => t.pc == 0x202) = true := by decide

/-- B-T14. -/
theorem test_ldVxK : after (run1 0xF10A (pcAt 0x204 .reset)) (fun t => t.run == .paused 1 && t.pc == 0x206 && t.getV 1 == 0) = true := by decide

/-- B-T6. -/
theorem test_timerTick : (let t := State.timerTick { State.reset with DT := 0xFF, ST := 0 }; t.DT == 0xFE && t.ST == 0) = true := by decide

/-- B-T15. -/
theorem test_keyPress_paused :
    after (step (hosted (.keyPress 7) { State.reset with run := .paused 1 })) (fun t => t.getV 1 == 7 && t.run == .running) = true := by decide

/-- B-T16. -/
theorem test_keyPress_running : after (step (hosted (.keyPress 7) .reset)) (fun t => t == State.reset) = true := by decide

/-- B-T17. -/
theorem test_paused_group :
    after (tickGroup { State.reset with run := .paused 1, DT := 5, ST := 3 })
      (fun t => t.pc == 0x200 && t.DT == 4 && t.ST == 2 && t.tone) = true := by decide

/-- The last slot of B-T7. -/
theorem test_last_slot_tone :
    after (run1 0x1200 { State.reset with slot := 9, ST := 2 }) (fun t => t.ST == 1 && t.tone && t.slot == 0) = true := by decide

/-- The last slot of B-T8. -/
theorem test_last_slot_no_tone :
    after (run1 0x1200 { State.reset with slot := 9, ST := 1 }) (fun t => t.ST == 0 && !t.tone && t.slot == 0) = true := by decide

/-! Fetch, reset, load (B-C18, B-E, B-R) -/

/-- B-C18. -/
theorem test_bad_opcode :
    after (run1 0x5341 (regs [(3, 0x7F), (4, 0x7F)])) (fun t => t.pc == 0x202 && t.report == some (.badOpcode 0x5341 0x200)) = true := by decide

/-- B-E4. -/
theorem test_nothing_loaded : after (step .reset) (fun t => t.pc == 0x202 && t.report == some (.badOpcode 0 0x200)) = true := by decide

/-- 20_memory.md R31: the low 12 bits of an address; B-C10. -/
theorem test_cellOf : cellOf 0x0FFF = 4095 ∧ cellOf 0x1000 = 0 ∧ cellOf 0x10FE = 0xFE := by decide

/-- B-E3. -/
theorem test_fetch_wraps : after (step (pcAt 0xFFF (bytesAt 0xFFF [0x6A] .reset))) (fun t => t.getV 0xA == 0xF0 && t.pc == 0x1001) = true := by decide

/-- B-E7. -/
theorem test_pc_wraps : after (run1 0x6001 (pcAt 0xFFFE .reset)) (fun t => t.getV 0 == 1 && t.pc == 0) = true := by decide

/-- B-R1. -/
theorem test_reset_clears :
    after (step (hosted .reset (bytesAt 0x300 [1] { regs [(3, 4)] with run := .paused 2, stack := [0x206], DT := 7, tone := true })))
      (fun t => t == State.reset) = true := by decide

/-- B-R2. -/
theorem test_load_odd :
    after (step (hosted (.load [0x60, 0x05, 0x61]) .reset))
      (fun t => t.mem == [(0x200, 0x60), (0x201, 0x05), (0x202, 0x61)] && t.pc == 0x200) = true := by decide

/-- B-R3, B-R4. -/
theorem test_load_limit : loadFits 3584 = true ∧ loadFits 3585 = false := by decide

/-- R212. -/
theorem test_load_late : refuses (step (hosted (.load [0x60]) { State.reset with loadAllowed := false })) .loadNotAdmitted = true := by decide

/-- The placed word runs before a queued host operation (log 13). -/
theorem test_withFetchWord_boundary :
    after (run1 0x6005 (hosted .reset .reset)) (fun t => t.getV 0 == 5 && t.hostQueue == [.op .reset]) = true := by decide

/-! Witnesses: the hypotheses of each statement are met, and each of its clauses at a boundary value -/

theorem witness_EncodeOfDecodeIsTheWord : decodeWord 0x00E0 = .ok .cls ∧ decodeWord 0xFF65 = .ok (.ldVxMem 0xF) := ⟨rfl, rfl⟩

theorem witness_UnrecognisedWordsAreThoseListed :
    decodeWord 0x0000 = .error (.unrecognised 0x0000) ∧ decodeWord 0x5001 = .error (.unrecognised 0x5001) ∧
      decodeWord 0x8008 = .error (.unrecognised 0x8008) ∧ decodeWord 0x9FFF = .error (.unrecognised 0x9FFF) ∧
      decodeWord 0xE09F = .error (.unrecognised 0xE09F) ∧ decodeWord 0xFFFF = .error (.unrecognised 0xFFFF) := ⟨rfl, rfl, rfl, rfl, rfl, rfl⟩

theorem witness_CallPushesTheNextAddress_room :
    (pcAt 0x202 { State.reset with stack := List.replicate 15 0x400 }).pc = (0x200 : Word) + 2 ∧
      (pcAt 0x202 { State.reset with stack := List.replicate 15 0x400 }).stack.length < 16 := by decide

theorem witness_CallPushesTheNextAddress_full :
    (pcAt 0x202 { State.reset with stack := List.replicate 16 0x400 }).pc = (0x200 : Word) + 2 ∧
      (pcAt 0x202 { State.reset with stack := List.replicate 16 0x400 }).stack.length = 16 := by decide

theorem witness_ReturnPopsTheNewestAddress_entry :
    (pcAt 0x302 { State.reset with stack := [0x206] }).pc = (0x300 : Word) + 2 ∧
      (pcAt 0x302 { State.reset with stack := [0x206] }).stack = 0x206 :: [] := by decide

theorem witness_ReturnPopsTheNewestAddress_empty : (pcAt 0x302 .reset).pc = (0x300 : Word) + 2 ∧ (pcAt 0x302 .reset).stack = [] := by decide

theorem witness_ReturnUndoesCall : ({ State.reset with stack := List.replicate 15 0x400 } : State).stack.length < 16 := by decide

/-- Both branches: kk = 0xFF and kk = 0. -/
theorem witness_SkipOnImmediateComparison :
    (pcAt 0x202 (regs [(1, 0xFF)])).pc = (0x200 : Word) + 2 ∧ (pcAt 0x202 (regs [(1, 0xFF)])).getV 1 = 0xFF ∧
      (pcAt 0x202 (regs [(1, 0xFF)])).getV 1 ≠ 0 := by decide

/-- Both branches: x = y, and x = 1 with y = 2. -/
theorem witness_SkipOnRegisterComparison :
    (pcAt 0x202 (regs [(1, 0xFF)])).pc = (0x200 : Word) + 2 ∧ (pcAt 0x202 (regs [(1, 0xFF)])).getV 1 ≠ (pcAt 0x202 (regs [(1, 0xFF)])).getV 2 := by decide

/-- Key 16 mod 16 = 0 is held, key 15 is not. -/
theorem witness_SkipOnKeyLevel :
    (pcAt 0x202 { State.reset with keys := 1 }).pc = (0x200 : Word) + 2 ∧
      (pcAt 0x202 { regs [(1, 15)] with keys := 1 }).keys.getLsbD ((regs [(0, 16)]).getV 0).toNat = false ∧
      (pcAt 0x202 { regs [(0, 16)] with keys := 1 }).keys.getLsbD (((regs [(0, 16)]).getV 0).toNat % 16) = true ∧
      (pcAt 0x202 { regs [(1, 15)] with keys := 1 }).keys.getLsbD (((regs [(1, 15)]).getV 1).toNat % 16) = false := by decide

theorem witness_AddRegistersSetsCarry_carry :
    (1 : RegNo) ≠ 0xF ∧ 255 < ((regs [(1, 0xFF), (2, 1)]).getV 1).toNat + ((regs [(1, 0xFF), (2, 1)]).getV 2).toNat := by decide

theorem witness_AddRegistersSetsCarry_no_carry :
    (1 : RegNo) ≠ 0xF ∧ ¬ 255 < ((regs [(1, 0xFE), (2, 1)]).getV 1).toNat + ((regs [(1, 0xFE), (2, 1)]).getV 2).toNat := by decide

theorem witness_SubtractSetsGreaterFlag_plain :
    ((regs [(1, 5), (2, 4), (0xF, 5)]).getV 1).toNat = 5 ∧ ((regs [(1, 5), (2, 4), (0xF, 5)]).getV 2).toNat = 4 ∧ 1 = (if 4 < 5 then 1 else 0) ∧
      (1 : RegNo) ≠ 0xF ∧ (2 : RegNo) ≠ 0xF := by decide

theorem witness_SubtractSetsGreaterFlag_x_flag :
    ((regs [(1, 5), (2, 4), (0xF, 5)]).getV 0xF).toNat = 5 ∧ ((regs [(1, 5), (2, 4), (0xF, 5)]).getV 2).toNat = 4 ∧
      1 = (if 4 < 5 then 1 else 0) ∧ (0xF : RegNo) = 0xF ∧ (2 : RegNo) ≠ 0xF := by decide

theorem witness_SubtractSetsGreaterFlag_y_flag :
    ((regs [(1, 5), (2, 4), (0xF, 4)]).getV 1).toNat = 5 ∧ ((regs [(1, 5), (2, 4), (0xF, 4)]).getV 0xF).toNat = 4 ∧
      1 = (if 4 < 5 then 1 else 0) ∧ (1 : RegNo) ≠ 0xF ∧ (0xF : RegNo) = 0xF := by decide

theorem witness_SubtractSetsGreaterFlag_both_flag :
    ((regs [(1, 5), (2, 4), (0xF, 5)]).getV 0xF).toNat = 5 ∧ ((regs [(1, 5), (2, 4), (0xF, 5)]).getV 0xF).toNat = 5 ∧
      0 = (if 5 < 5 then 1 else 0) ∧ (0xF : RegNo) = 0xF ∧ (0xF : RegNo) = 0xF := by decide

theorem witness_ReverseSubtractSetsGreaterFlag_plain :
    ((regs [(1, 5), (2, 4), (0xF, 5)]).getV 1).toNat = 5 ∧ ((regs [(1, 5), (2, 4), (0xF, 5)]).getV 2).toNat = 4 ∧ 0 = (if 5 < 4 then 1 else 0) ∧
      (1 : RegNo) ≠ 0xF ∧ (2 : RegNo) ≠ 0xF := by decide

theorem witness_ReverseSubtractSetsGreaterFlag_x_flag :
    ((regs [(1, 5), (2, 4), (0xF, 5)]).getV 0xF).toNat = 5 ∧ ((regs [(1, 5), (2, 4), (0xF, 5)]).getV 2).toNat = 4 ∧
      0 = (if 5 < 4 then 1 else 0) ∧ (0xF : RegNo) = 0xF ∧ (2 : RegNo) ≠ 0xF := by decide

theorem witness_ReverseSubtractSetsGreaterFlag_y_flag :
    ((regs [(1, 5), (2, 4), (0xF, 4)]).getV 1).toNat = 5 ∧ ((regs [(1, 5), (2, 4), (0xF, 4)]).getV 0xF).toNat = 4 ∧
      0 = (if 5 < 4 then 1 else 0) ∧ (1 : RegNo) ≠ 0xF ∧ (0xF : RegNo) = 0xF := by decide

theorem witness_ReverseSubtractSetsGreaterFlag_both_flag :
    ((regs [(1, 5), (2, 4), (0xF, 5)]).getV 0xF).toNat = 5 ∧ ((regs [(1, 5), (2, 4), (0xF, 5)]).getV 0xF).toNat = 5 ∧
      0 = (if 5 < 5 then 1 else 0) ∧ (0xF : RegNo) = 0xF ∧ (0xF : RegNo) = 0xF := by decide

theorem witness_ShiftsMoveOneBitIntoTheFlag :
    ((regs [(1, 0x81), (0xF, 0x80)]).getV 1).toNat = 0x81 ∧ (1 : RegNo) ≠ 0xF ∧ ((regs [(1, 0x81), (0xF, 0x80)]).getV 0xF).toNat = 0x80 := by decide

theorem witness_RandomByteIsMasked_given :
    ({ State.reset with rndInput := [0xA7] } : State).rndInput = 0xA7 :: [] ∧ (0x0F : Byte).getLsbD 4 = false := by decide

theorem witness_RandomByteIsMasked_free : State.reset.rndInput = [] := by decide

theorem witness_RegistersAreStoredInOrder : (15 : Nat) ≤ (0xF : RegNo).toNat ∧ (0 : Nat) ≤ (0 : RegNo).toNat := by decide

theorem witness_RegistersAreLoadedInOrder : (15 : Nat) ≤ (0xF : RegNo).toNat ∧ (0xE : RegNo).toNat < (0xF : RegNo).toNat := by decide

/-- The registers of the second state differ from those stored. -/
theorem witness_StoredRegistersLoadBack :
    ∃ t u : State, exec (.ldMemVx 2) (regs [(2, 9)]) = .next t ∧ u.I = t.I ∧ (∀ a : Word, u.readByte a = t.readByte a) ∧
      u.getV 2 ≠ (regs [(2, 9)]).getV 2 := ⟨_, (storeRegs 3 (regs [(2, 9)])).setV 2 0, rfl, rfl, fun _ => rfl, by decide⟩

/-- B-M16. -/
theorem witness_StoreIsSeenByTheNextFetch :
    ∃ t : State, 0 < (1 : RegNo).toNat ∧
      (pcAt 0x204 { regs [(0, 0x12)] with I := 0x204 }).pc = (pcAt 0x204 { regs [(0, 0x12)] with I := 0x204 }).I + BitVec.ofNat 16 0 ∧
      exec (.ldMemVx 1) (pcAt 0x204 { regs [(0, 0x12)] with I := 0x204 }) = .next t := ⟨_, by decide, by decide, rfl⟩

/-- B-D1: the second set bit of the row, at the right edge. -/
theorem witness_DrawFlipsTheCoveredCells_covered :
    covers (bytesAt 0x300 [0xC0] (regs [(0, 126), (1, 63)])) 126 63 1 127 63 := ⟨0, 1, by decide, by decide, by decide, by decide, by decide⟩

/-- n = 0 covers nothing. -/
theorem witness_DrawFlipsTheCoveredCells_not_covered :
    ¬ covers (bytesAt 0x300 [0xC0] (regs [(0, 126), (1, 63)])) 126 63 0 127 63 := fun h => by obtain ⟨r, _, hr, _⟩ := h; exact absurd hr (Nat.not_lt_zero r)

theorem witness_DrawFlipsTheCoveredCells_off :
    ∃ (px : Fin 128) (py : Fin 64), covers (bytesAt 0x300 [0x80] .reset) 0 0 1 px.val py.val ∧
      (bytesAt 0x300 [0x80] .reset).fbRead px py = false := ⟨0, 0, ⟨0, 0, by decide, by decide, by decide, by decide, by decide⟩, by decide⟩

/-- B-D4: with n = 0 every covered cell is on. -/
theorem witness_DrawFlipsTheCoveredCells_all_on :
    ∀ (px : Fin 128) (py : Fin 64), covers State.reset 0 0 0 px.val py.val → State.reset.fbRead px py = true := fun _ _ h => by obtain ⟨r, _, hr, _⟩ := h; exact absurd hr (Nat.not_lt_zero r)

theorem witness_DrawTwiceRestoresTheFrameBuffer :
    ∃ (px : Fin 128) (py : Fin 64), covers ((bytesAt 0x300 [0x80] .reset).flipPixel 0 0) 0 0 1 px.val py.val ∧
      ((bytesAt 0x300 [0x80] .reset).flipPixel 0 0).fbRead px py = true := ⟨0, 0, ⟨0, 0, by decide, by decide, by decide, by decide, by decide⟩, by decide⟩

theorem witness_StepRunsTheDecodedInstruction :
    (State.reset.withFetchWord 16 0x6005).run = .running ∧ (State.reset.withFetchWord 16 0x6005).pendingOp = none ∧
      decode [(State.reset.withFetchWord 16 0x6005).readByte 0x200, (State.reset.withFetchWord 16 0x6005).readByte 0x201] = .ok (.ldVxKk 0 5, []) ∧
      (Instr.ldVxKk 0 5).wellFormed = true := ⟨rfl, rfl, rfl, rfl⟩

theorem witness_SlotOpensAndCloses :
    State.reset.slot = 0 ∧ State.reset.slot.val < 9 ∧ ({ State.reset with slot := 8 } : State).slot ≠ 0 ∧
      ({ State.reset with slot := 8 } : State).slot.val < 9 ∧ ({ State.reset with slot := 9 } : State).slot.val = 9 := by decide

theorem witness_UnrecognisedWordIsReportedAndSkipped :
    State.reset.run = .running ∧ State.reset.pendingOp = none ∧
      (0 : Word).toNat = 256 * (State.reset.readByte State.reset.pc).toNat + (State.reset.readByte (State.reset.pc + 1)).toNat ∧
      ∀ i, decodeWord 0 ≠ .ok i := ⟨rfl, rfl, by decide, fun _ h => by cases h⟩

theorem witness_PausedTickGroupOnlyCountsTimers : ({ State.reset with run := .paused 0xF } : State).run = .paused 0xF := by decide

theorem witness_TenStepsAreOneTickGroup :
    State.reset.slot = 0 ∧ State.reset.pendingOp = none ∧ ({ State.reset with hostQueue := [.tick] } : State).pendingOp = none := ⟨rfl, rfl, rfl⟩

theorem witness_HostActsOnlyBetweenTickGroups :
    ({ State.reset with slot := 1 } : State).slot ≠ 0 ∧ ∃ t, step { State.reset with slot := 1 } = .next t := ⟨by decide, _, rfl⟩

theorem witness_PausedIsEnteredAndLeftOnlyAsStated_entered :
    ∃ t, step (State.reset.withFetchWord 16 0xF10A) = .next t ∧ (State.reset.withFetchWord 16 0xF10A).run = .running ∧
      t.run = .paused 1 := ⟨_, rfl, rfl, rfl⟩

theorem witness_PausedIsEnteredAndLeftOnlyAsStated_left :
    ∃ t, step (hosted (.keyPress 7) { State.reset with run := .paused 1 }) = .next t ∧ t.run = .running := ⟨_, rfl, rfl⟩

theorem witness_KeyPressEndsTheWait :
    State.reset.slot = 0 ∧ (hosted (.keyPress 15) .reset).hostQueue = .op (.keyPress 15) :: [] ∧
      (hosted (.keyPress 15) { State.reset with run := .paused 0xF }).run = .paused 0xF ∧
      (hosted (.keyPress 15) .reset).run = .running := by decide

/-- The longest program that fits. -/
theorem witness_LoadCopiesOrIsRefused_fits :
    (hosted (.load (List.replicate 3584 0x12)) .reset).slot = 0 ∧
      (hosted (.load (List.replicate 3584 0x12)) .reset).hostQueue = .op (.load (List.replicate 3584 0x12)) :: [] ∧
      (hosted (.load (List.replicate 3584 0x12)) .reset).loadAllowed = true ∧
      (List.replicate 3584 (0x12 : Byte)).length + 0x200 ≤ 4096 := ⟨rfl, rfl, rfl, by rw [List.length_replicate]⟩

/-- One byte more than fits. -/
theorem witness_LoadCopiesOrIsRefused_long :
    (hosted (.load (List.replicate 3585 0x12)) .reset).slot = 0 ∧
      (hosted (.load (List.replicate 3585 0x12)) .reset).hostQueue = .op (.load (List.replicate 3585 0x12)) :: [] ∧
      (hosted (.load (List.replicate 3585 0x12)) .reset).loadAllowed = true ∧
      4096 < (List.replicate 3585 (0x12 : Byte)).length + 0x200 := ⟨rfl, rfl, rfl, by rw [List.length_replicate]; omega⟩

theorem witness_LoadElsewhereIsNotAdmitted :
    (hosted (.load [1]) { State.reset with loadAllowed := false }).slot = 0 ∧
      (hosted (.load [1]) { State.reset with loadAllowed := false }).hostQueue = .op (.load [1]) :: [] ∧
      (hosted (.load [1]) { State.reset with loadAllowed := false }).loadAllowed = false := by decide

/-- Addresses 0x104F and 0x1050 select cells 79 and 80. -/
theorem witness_ResetSetsEveryPieceOfState :
    (hosted .reset (regs [(3, 4)])).slot = 0 ∧ (hosted .reset (regs [(3, 4)])).hostQueue = .op .reset :: [] ∧ cellOf 0x104F < 80 ∧
      80 ≤ cellOf 0x1050 := by decide

theorem witness_ResetStateHasTheStatedValues : cellOf 79 < 80 ∧ 80 ≤ cellOf 80 ∧ 80 ≤ cellOf 0xFFFF := by decide

theorem witness_OnlyDestinationsChange :
    ∃ t, exec (.ldBVx 3) State.reset = .next t ∧ (0 : RegNo) ∉ destRegs (.ldBVx 3) ∧
      cellOf 3 ∉ destCells (.ldBVx 3) State.reset := ⟨_, rfl, by decide, by decide⟩

theorem witness_AddressRegistersHaveOnlyTheirWriters :
    ∃ t, exec .cls State.reset = .next t ∧ writesIndex .cls = false ∧ writesPc .cls = false ∧ usesStack .cls = false := ⟨_, rfl, rfl, rfl, rfl⟩

theorem witness_TimersAndDisplayHaveOnlyTheirWriters :
    ∃ t, exec (.jp 0x200) State.reset = .next t ∧ writesFrameBuffer (.jp 0x200) = false ∧ (∀ x, Instr.jp 0x200 ≠ .ldDtVx x) ∧
      (∀ x, Instr.jp 0x200 ≠ .ldStVx x) := ⟨_, rfl, rfl, (fun _ h => by cases h), (fun _ h => by cases h)⟩

theorem witness_OnlyKeySkipsDependOnKeys :
    (∀ x, Instr.ldVxK 1 ≠ .skp x) ∧ (∀ x, Instr.ldVxK 1 ≠ .sknp x) := ⟨(fun _ h => by cases h), (fun _ h => by cases h)⟩

theorem witness_OnlyRandomDependsOnTheRandomInput : ∀ x kk, Instr.ldVxKk 1 2 ≠ .rnd x kk := fun _ _ h => by cases h

theorem witness_StepKeepsTheInvariant : ∃ t, Inv State.reset ∧ step State.reset = .next t := ⟨_, ⟨by decide, by decide, fun _ => by decide⟩, rfl⟩

theorem witness_LoadMeetsOnlyTheResetState :
    ∃ t, LoadInv State.reset ∧ State.reset.loadAllowed = true ∧ step State.reset = .next t := ⟨_, fun _ => rfl, rfl, rfl⟩

theorem witness_FontNeverChanges : ∃ t, step State.reset = .next t := ⟨_, rfl⟩

theorem witness_StepRefusesOnlyMisplacedLoads : step (hosted (.load [1]) { State.reset with loadAllowed := false }) = .refused .loadNotAdmitted := rfl

end Sys2Proof.Tests
end

section
/-! PROOFS, shared layer. What the execute phase and the host's operations do to the fields no instruction writes. -/

namespace Sys2Proof.Safety

open Sys2Proof.Machine

theorem SameSurroundings.refl (s : State) : SameSurroundings s s := ⟨rfl, rfl, rfl, rfl, rfl, rfl, rfl⟩

theorem SameSurroundings.font {s t : State} (h : SameSurroundings s t) : t.font = s.font := by
  obtain ⟨-, hfont, -⟩ := h
  exact hfont

end Sys2Proof.Safety

namespace Sys2Proof.Machine

open Sys2Proof.Safety

variable {s t : State}

theorem sameSurroundings_skipIf (s : State) (c : Bool) : SameSurroundings s (s.skipIf c) := by
  simp [SameSurroundings]

theorem sameSurroundings_rndTake (s : State) : SameSurroundings s s.rndTake := by simp [SameSurroundings]

theorem sameSurroundings_storeRegs (k : Nat) (s : State) : SameSurroundings s (storeRegs k s) := by
  rw [storeRegs_eq]; exact .refl s

theorem sameSurroundings_loadRegs (k : Nat) (s : State) : SameSurroundings s (loadRegs k s) := by
  rw [loadRegs_eq]; exact .refl s

theorem Drawn.sameSurroundings {P : Nat → Nat → Prop} (d : Drawn P s t) : SameSurroundings s t := by
  rw [d.rest]; exact .refl s

/-- What a return that answers a next state is (41_control_flow.md R90). -/
theorem execRet_cases (h : execRet s = .next t) :
    ∃ a rest, s.stack = a :: rest ∧ t = { s with stack := rest }.jumpTo a := by
  unfold execRet at h
  split at h
  · cases h
  · next a rest hs => cases h; exact ⟨a, rest, hs, rfl⟩

/-- What a call that answers a next state is (41_control_flow.md R92). -/
theorem execCall_cases {nnn : Addr12} (h : execCall nnn s = .next t) :
    s.stack.length < Config.stackDepth ∧ t = { s with stack := s.pc :: s.stack }.jumpTo (zextAddr nnn) := by
  unfold execCall at h
  split at h
  · cases h
  · next room => cases h; exact ⟨Nat.lt_of_not_le room, rfl⟩

/-- 10_state.md R19 to R21 over every instruction. The arms before the last are those whose next state is not one record update of `s`:
two that may fault, a conditional skip, a choice of sample, and the loops. -/
theorem exec_sameSurroundings {i : Instr} (h : exec i s = .next t) : SameSurroundings s t := by
  cases i with
  | ret => obtain ⟨_, _, -, rfl⟩ := execRet_cases h; exact .refl s
  | call nnn => obtain ⟨-, rfl⟩ := execCall_cases h; exact .refl s
  | seVxKk | sneVxKk | seVxVy | sneVxVy | skp | sknp => cases h; exact sameSurroundings_skipIf s _
  | rnd => cases h; exact sameSurroundings_rndTake s
  | drw x y n => cases h; exact (drawn_drawSprite (s.setFlag 0) _ _ (by omega)).sameSurroundings
  | ldMemVx => cases h; exact sameSurroundings_storeRegs _ s
  | ldVxMem => cases h; exact sameSurroundings_loadRegs _ s
  | _ => cases h; exact .refl s

/-- What a load that answers a next state is (20_memory.md R43, 70_reset_and_hazards.md R212). -/
theorem hostLoad_cases {bytes : List Byte} (h : hostLoad bytes s = .next t) :
    s.loadAllowed = true ∧
      ((bytes.length + 0x200 ≤ 4096 ∧ t = { copyBytes Config.progBase bytes s with loadAllowed := false }) ∨
       (4096 < bytes.length + 0x200 ∧ t = s.emit (.loadRefused bytes.length))) := by
  cases ha : s.loadAllowed with
  | false => rw [hostLoad_of_not_allowed s bytes ha] at h; cases h
  | true =>
    refine ⟨rfl, ?_⟩
    rcases Nat.lt_or_ge 4096 (bytes.length + 0x200) with long | fits
    · rw [hostLoad_of_long s ha long] at h; cases h; exact .inr ⟨long, rfl⟩
    · rw [hostLoad_of_fits s ha fits] at h; cases h; exact .inl ⟨fits, rfl⟩

@[simp] theorem copyBytes_font (a : Nat) (bytes : List Byte) (s : State) : (copyBytes a bytes s).font = s.font := by
  rw [copyBytes_eq]

@[simp] theorem hostReset_font (s : State) : (hostReset s).font = s.font := rfl

@[simp] theorem hostKeyPress_font (k : Nibble) (s : State) : (hostKeyPress k s).font = s.font := by
  cases hr : s.run with
  | running => rw [hostKeyPress_of_running s k hr]
  | paused x => rw [hostKeyPress_of_paused s k hr]; rfl

end Sys2Proof.Machine
end

section
/-! PROOFS, 00_scope.md. The parameter `FONT` through the host's operations, a slot and a step. -/

namespace Sys2Proof.Machine

variable {s t : State}

theorem hostOp_font {o : HostOp} (h : hostOp o s = .next t) : t.font = s.font := by
  cases o with
  | keyPress k => cases h; exact hostKeyPress_font k s
  | setKeys levels => cases h; rfl
  | reset => cases h; exact hostReset_font s
  | load bytes =>
    obtain ⟨-, ⟨-, rfl⟩ | ⟨-, rfl⟩⟩ := hostLoad_cases h
    · exact copyBytes_font _ bytes s
    · exact State.emit_font s _

theorem slotStep_font (h : slotStep s = .next t) : t.font = s.font := by
  obtain ⟨i, -, -, hexec⟩ | ⟨_, -, -, rfl⟩ | ⟨_, -, rfl⟩ := slotStep_cases s h
  · exact (exec_sameSurroundings hexec).font
  · simp
  · rfl

/-- Settles O58, by the cases of a step: a host operation, or a slot between its opening and its closing. -/
theorem fontNeverChanges : Obligations.FontNeverChanges := by
  unfold Obligations.FontNeverChanges
  intro s t h
  obtain ⟨o, q, -, -, hop⟩ | ⟨-, u, hslot, rfl⟩ := step_cases s h
  · calc t.font = (s.withQueue q).font := hostOp_font hop
      _ = s.font := State.withQueue_font s q
  · calc u.closeSlot.font = u.font := closeSlot_font u
      _ = s.openSlot.font := slotStep_font hslot
      _ = s.font := openSlot_font s

end Sys2Proof.Machine
end

section
/-! PROOFS, shared layer. Frames: they compose, every update of the state has one, and every instruction has the frame `touched`. -/

namespace Sys2Proof.Safety

open Sys2Proof.Machine

variable {k : Touched} {s t u : State}

/-- The instruction that writes `DT` (45_timers_keys.md R172). -/
def writesDelay : Instr → Bool
  | .ldDtVx _ => true
  | _ => false

/-- The instruction that writes `ST` (45_timers_keys.md R173). -/
def writesSound : Instr → Bool
  | .ldStVx _ => true
  | _ => false

/-- The instruction that pauses the core (45_timers_keys.md R176). -/
def writesRunState : Instr → Bool
  | .ldVxK _ => true
  | _ => false

/-- The instruction that takes a sample of `rnd` (42_alu.md R121). -/
def drawsRandom : Instr → Bool
  | .rnd _ _ => true
  | _ => false

/-- All that an instruction may change, from the state it executes in. At each instruction this computes to a `Touched` literal. -/
def touched (i : Instr) (s : State) : Touched where
  regs := destRegs i
  cells := destCells i s
  index := writesIndex i
  pc := writesPc i
  stack := usesStack i
  delay := writesDelay i
  sound := writesSound i
  frameBuffer := writesFrameBuffer i
  runState := writesRunState i
  random := drawsRandom i

theorem writesDelay_eq_false {i : Instr} (h : ∀ x, i ≠ .ldDtVx x) : writesDelay i = false := by
  cases i with
  | ldDtVx x => exact absurd rfl (h x)
  | _ => rfl

theorem writesSound_eq_false {i : Instr} (h : ∀ x, i ≠ .ldStVx x) : writesSound i = false := by
  cases i with
  | ldStVx x => exact absurd rfl (h x)
  | _ => rfl

theorem SameSurroundings.trans (h : SameSurroundings s t) (g : SameSurroundings t u) : SameSurroundings s u := by
  obtain ⟨h1, h2, h3, h4, h5, h6, h7⟩ := h
  obtain ⟨g1, g2, g3, g4, g5, g6, g7⟩ := g
  exact ⟨g1.trans h1, g2.trans h2, g3.trans h3, g4.trans h4, g5.trans h5, g6.trans h6, g7.trans h7⟩

theorem Frame.refl (k : Touched) (s : State) : Frame k s s := by simp [Frame, SameSurroundings]

/-- Two changes of what `k` names are one. -/
theorem Frame.trans (h : Frame k s t) (g : Frame k t u) : Frame k s u := by
  obtain ⟨hV, hmem, hI, hpc, hstack, hDT, hST, hFB, hrun, hrnd, hrest⟩ := h
  obtain ⟨gV, gmem, gI, gpc, gstack, gDT, gST, gFB, grun, grnd, grest⟩ := g
  exact ⟨fun r hr => (gV r hr).trans (hV r hr), fun a ha => (gmem a ha).trans (hmem a ha),
    fun e => (gI e).trans (hI e), fun e => (gpc e).trans (hpc e), fun e => (gstack e).trans (hstack e),
    fun e => (gDT e).trans (hDT e), fun e => (gST e).trans (hST e),
    fun e px py => (gFB e px py).trans (hFB e px py), fun e => (grun e).trans (hrun e),
    fun e => ⟨(grnd e).1.trans (hrnd e).1, (grnd e).2.trans (hrnd e).2⟩, hrest.trans grest⟩

theorem frame_setV {x : RegNo} (h : x ∈ k.regs) (v : Byte) : Frame k s (s.setV x v) := by
  have hV : ∀ r, r ∉ k.regs → (s.setV x v).getV r = s.getV r := fun r hr =>
    State.getV_setV_ne s (fun (e : r = x) => hr (e ▸ h)) v
  simpa [Frame, SameSurroundings] using hV

theorem frame_setFlag (h : regF ∈ k.regs) (f : Byte) : Frame k s (s.setFlag f) := frame_setV h f

theorem frame_writeByte {a : Word} (h : cellOf a ∈ k.cells) (v : Byte) : Frame k s (s.writeByte a v) := by
  have hmem : ∀ b, cellOf b ∉ k.cells → (s.writeByte a v).readByte b = s.readByte b := fun b hb => by
    rw [State.readByte_writeByte, if_neg (fun e => hb (by rwa [e]))]
  simpa [Frame, SameSurroundings] using hmem

theorem frame_jumpTo (h : k.pc = true) (a : Word) : Frame k s (s.jumpTo a) := by
  simp [Frame, SameSurroundings, h]

theorem frame_skipIf (h : k.pc = true) (c : Bool) : Frame k s (s.skipIf c) := by
  simp [Frame, SameSurroundings, h]

theorem frame_setI (h : k.index = true) (a : Word) : Frame k s (s.setI a) := by
  simp [Frame, SameSurroundings, h]

theorem frame_clear (h : k.frameBuffer = true) : Frame k s s.clear := by simp [Frame, SameSurroundings, h]

theorem frame_rndTake (h : k.random = true) : Frame k s s.rndTake := by simp [Frame, SameSurroundings, h]

theorem frame_stack (h : k.stack = true) (l : List Word) : Frame k s { s with stack := l } := by
  simp [Frame, SameSurroundings, State.getV, State.readByte, State.readCell, State.fbRead, State.pixel, h]

theorem frame_delay (h : k.delay = true) (v : Byte) : Frame k s { s with DT := v } := by
  simp [Frame, SameSurroundings, State.getV, State.readByte, State.readCell, State.fbRead, State.pixel, h]

theorem frame_sound (h : k.sound = true) (v : Byte) : Frame k s { s with ST := v } := by
  simp [Frame, SameSurroundings, State.getV, State.readByte, State.readCell, State.fbRead, State.pixel, h]

theorem frame_runState (h : k.runState = true) (r : RunState) : Frame k s { s with run := r } := by
  simp [Frame, SameSurroundings, State.getV, State.readByte, State.readCell, State.fbRead, State.pixel, h]

theorem frame_drawn {P : Nat → Nat → Prop} (d : Drawn P s t) (hF : regF ∈ k.regs) (hFB : k.frameBuffer = true) :
    Frame k s t := by
  have hV : ∀ r, r ∉ k.regs → t.getV r = s.getV r := fun r hr => d.regs r (fun e => hr (e ▸ hF))
  rw [d.rest] at hV ⊢
  refine ⟨hV, ?_⟩
  simp [SameSurroundings, State.readByte, State.readCell, hFB]

theorem frame_storeRegs {n : Nat} (h : ∀ r < n, cellOf (s.effAddr r) ∈ k.cells) : Frame k s (storeRegs n s) := by
  induction n with
  | zero => exact .refl k s
  | succ n ih =>
    rw [storeRegs_succ, storeRegs_effAddr]
    exact (ih fun r hr => h r (by omega)).trans (frame_writeByte (h n (by omega)) _)

theorem frame_loadRegs {n : Nat} (h : ∀ r < n, regOf r ∈ k.regs) : Frame k s (loadRegs n s) := by
  induction n with
  | zero => exact .refl k s
  | succ n ih =>
    rw [loadRegs_succ]
    exact (ih fun r hr => h r (by omega)).trans (frame_setV (h n (by omega)) _)

theorem frame_storeDigits (h : ∀ r < 3, cellOf (s.effAddr r) ∈ k.cells) (v : Byte) : Frame k s (storeDigits v s) :=
  ((frame_writeByte (h 0 (by omega)) _).trans (frame_writeByte (h 1 (by omega)) _)).trans
    (frame_writeByte (h 2 (by omega)) _)

/-- Every instruction changes only what `touched` names: its updates do, one after another. -/
theorem exec_frame {i : Instr} (h : exec i s = .next t) : Frame (touched i s) s t := by
  cases i with
  | cls => cases h; exact frame_clear rfl
  | ret =>
    obtain ⟨a, rest, -, rfl⟩ := execRet_cases h
    exact (frame_stack rfl rest).trans (frame_jumpTo rfl a)
  | call nnn =>
    obtain ⟨-, rfl⟩ := execCall_cases h
    exact (frame_stack rfl _).trans (frame_jumpTo rfl _)
  | jp | jpV0 => cases h; exact frame_jumpTo rfl _
  | seVxKk | sneVxKk | seVxVy | sneVxVy | skp | sknp => cases h; exact frame_skipIf rfl _
  | ldVxKk | addVxKk | ldVxVy | or | and | xor | ldVxDt => cases h; exact frame_setV List.mem_cons_self _
  | addVxVy | sub | shr | subn | shl =>
    cases h
    exact (frame_setFlag (List.mem_cons_of_mem _ List.mem_cons_self) _).trans (frame_setV List.mem_cons_self _)
  | rnd => cases h; exact (frame_rndTake rfl).trans (frame_setV List.mem_cons_self _)
  | drw x y n =>
    cases h
    exact (frame_setFlag List.mem_cons_self 0).trans
      (frame_drawn (drawn_drawSprite (s.setFlag 0) _ _ (by omega)) List.mem_cons_self rfl)
  | ldINnn | addIVx | ldFVx => cases h; exact frame_setI rfl _
  | ldVxK => cases h; exact frame_runState rfl _
  | ldDtVx => cases h; exact frame_delay rfl _
  | ldStVx => cases h; exact frame_sound rfl _
  | ldBVx =>
    have hcells : ∀ r < 3, cellOf (s.effAddr r) ∈ (List.range 3).map (fun r => cellOf (s.effAddr r)) :=
      fun r hr => List.mem_map_of_mem (List.mem_range.mpr hr)
    cases h; exact frame_storeDigits hcells _
  | ldMemVx => cases h; exact frame_storeRegs fun r hr => List.mem_map_of_mem (List.mem_range.mpr hr)
  | ldVxMem => cases h; exact frame_loadRegs fun r hr => List.mem_map_of_mem (List.mem_range.mpr hr)

end Sys2Proof.Safety
end

section
/-! PROOFS, shared layer. The two instructions that may fault (41_control_flow.md R90, R92, R99) and a slot (40_cycle_fsm.md R71 to R76), case by case; a step
inside a tick-group; a change of state that no draw sees. -/

namespace Sys2Proof.Machine

variable (s : State)

theorem execRet_of_nil (h : s.stack = []) : execRet s = .fault (.stackUnderflow s.addr0) := by
  unfold execRet; rw [h]

theorem execRet_of_cons {a : Word} {rest : List Word} (h : s.stack = a :: rest) :
    execRet s = .next ({ s with stack := rest }.jumpTo a) := by
  unfold execRet; rw [h]

theorem execCall_of_room (nnn : Addr12) (h : s.stack.length < Config.stackDepth) :
    execCall nnn s = .next ({ s with stack := s.pc :: s.stack }.jumpTo (zextAddr nnn)) :=
  if_neg (Nat.not_le_of_lt h)

theorem execCall_of_full (nnn : Addr12) (h : Config.stackDepth ≤ s.stack.length) :
    execCall nnn s = .fault (.stackOverflow s.addr0) := if_pos h

theorem slotStep_of_paused {x : RegNo} (h : s.run = .paused x) : slotStep s = .next s := by
  unfold slotStep; rw [h]

theorem slotStep_of_running (h : s.run = .running) : slotStep s = instructionStep s := by
  unfold slotStep; rw [h]

theorem slotStep_of_ok {i : Instr} (hr : s.run = .running) (hd : decodeWord s.fetchWord = .ok i) :
    slotStep s = exec i s.advance := by
  rw [slotStep_of_running s hr]; unfold instructionStep; rw [hd]

theorem slotStep_of_error {e : Reject} (hr : s.run = .running) (hd : decodeWord s.fetchWord = .error e) :
    slotStep s = .next (s.advance.emit (.badOpcode s.fetchWord s.pc)) := by
  rw [slotStep_of_running s hr]; unfold instructionStep; rw [hd]

/-- Opening a slot inside a tick-group leaves the queue alone. -/
theorem openSlot_of_ne_zero (h : s.slot ≠ 0) : s.openSlot = s.quiet := if_neg h

theorem pendingOp_of_ne_zero (h : s.slot ≠ 0) : s.pendingOp = none := if_neg h

theorem step_of_ne_zero (h : s.slot ≠ 0) : step s = onNext State.closeSlot (slotStep s.quiet) := by
  rw [step_of_slot s (pendingOp_of_ne_zero s h), openSlot_of_ne_zero s h]

theorem onNext_onNext (f g : State → State) (o : Host.Outcome State Fault Refusal) :
    onNext f (onNext g o) = onNext (fun u => f (g u)) o := by cases o <;> rfl

/-- A change of state that no pixel's drawing sees, nor the reading of the sprite, is seen by no draw. -/
theorem drawSprite_commute {g : State → State} (hdraw : ∀ s x y, drawPixel x y (g s) = g (drawPixel x y s))
    (hread : ∀ s r, (g s).readByte ((g s).effAddr r) = s.readByte (s.effAddr r)) (x0 y0 rows : Nat) :
    drawSprite x0 y0 rows (g s) = g (drawSprite x0 y0 rows s) := by
  apply foldl_commute
  intro t r
  rw [drawRow, hread]
  apply foldl_commute
  intro u c
  rw [drawColumn, hdraw, drawColumn, apply_ite g]

end Sys2Proof.Machine
end

section
/-! PROOFS, 10_state.md. The writers of each piece of state, the invariant, and the host outside a tick-group. -/

namespace Sys2Proof.Machine

open Sys2Proof.Safety

variable {s t : State}

/-- Two frame buffers whose read ports agree are one (10_state.md R16, R20). -/
theorem FB_ext_fbRead (h : ∀ px py, t.fbRead px py = s.fbRead px py) : t.FB = s.FB := by
  apply FB_ext_pixel
  intro px py
  rw [← pixel_mod t, ← pixel_mod s]
  exact h ⟨px % 128, Nat.mod_lt px (by decide)⟩ ⟨py % 64, Nat.mod_lt py (by decide)⟩

/-- Settles O49, from the frame of each instruction. -/
theorem onlyDestinationsChange : Obligations.OnlyDestinationsChange := by
  unfold Obligations.OnlyDestinationsChange
  intro i s t h
  obtain ⟨hregs, hcells, -⟩ := exec_frame h
  exact ⟨hregs, hcells⟩

/-- Settles O50, from the frame of each instruction. -/
theorem addressRegistersHaveOnlyTheirWriters : Obligations.AddressRegistersHaveOnlyTheirWriters := by
  unfold Obligations.AddressRegistersHaveOnlyTheirWriters
  intro i s t h
  obtain ⟨-, -, hindex, hpc, hstack, -⟩ := exec_frame h
  exact ⟨hindex, hpc, hstack⟩

/-- Settles O51, from the frame of each instruction. -/
theorem timersAndDisplayHaveOnlyTheirWriters : Obligations.TimersAndDisplayHaveOnlyTheirWriters := by
  unfold Obligations.TimersAndDisplayHaveOnlyTheirWriters
  intro i s t h
  obtain ⟨-, -, -, -, -, hdelay, hsound, hdisplay, -, -, hrest⟩ := exec_frame h
  exact ⟨fun hw => FB_ext_fbRead (hdisplay hw), fun hne => hdelay (writesDelay_eq_false hne),
    fun hne => hsound (writesSound_eq_false hne), hrest⟩

/-! The invariant. -/

/-- The part of the invariant that holds inside a tick-group too: memory canonical, at most 16 return addresses. -/
def StoresInv (s : State) : Prop := s.memWf ∧ s.stack.length ≤ Config.stackDepth

theorem exec_memWf {i : Instr} (h : exec i s = .next t) (w : s.memWf) : t.memWf := by
  cases i with
  | ret => obtain ⟨_, _, -, rfl⟩ := execRet_cases h; exact w
  | call => obtain ⟨-, rfl⟩ := execCall_cases h; exact w
  | seVxKk | sneVxKk | seVxVy | sneVxVy | skp | sknp | rnd => cases h; simpa [State.memWf] using w
  | drw x y n =>
    cases h
    have d := drawn_drawSprite (s.setFlag 0) ((s.setFlag 0).getV x).toNat ((s.setFlag 0).getV y).toNat
      (show n.toNat ≤ 64 by omega)
    rw [d.rest]; exact w
  | ldBVx => cases h; exact storeDigits_memWf s _ w
  | ldMemVx => cases h; exact storeRegs_memWf s _ w
  | ldVxMem => cases h; rw [loadRegs_eq]; exact w
  | _ => cases h; exact w

/-- A return drops an address, a call adds one only where there is room, and no other instruction has the stack in its frame. -/
theorem exec_stack_length_le {i : Instr} (h : exec i s = .next t) (d : s.stack.length ≤ Config.stackDepth) :
    t.stack.length ≤ Config.stackDepth := by
  cases hi : usesStack i with
  | false =>
    obtain ⟨-, -, -, -, hstack, -⟩ := exec_frame h
    rwa [hstack hi]
  | true =>
    cases i with
    | ret =>
      obtain ⟨_, rest, hs, rfl⟩ := execRet_cases h
      rw [hs, List.length_cons] at d
      exact Nat.le_of_succ_le d
    | call => obtain ⟨room, rfl⟩ := execCall_cases h; exact room
    | _ => cases hi

theorem exec_storesInv {i : Instr} (h : exec i s = .next t) (w : StoresInv s) : StoresInv t :=
  ⟨exec_memWf h w.1, exec_stack_length_le h w.2⟩

theorem slotStep_storesInv (h : slotStep s = .next t) (w : StoresInv s) : StoresInv t := by
  obtain ⟨i, -, -, hexec⟩ | ⟨_, -, -, rfl⟩ | ⟨_, -, rfl⟩ := slotStep_cases s h
  · exact exec_storesInv hexec w
  · exact w
  · exact w

theorem openSlot_storesInv (w : StoresInv s) : StoresInv s.openSlot := by rw [openSlot_eq]; exact w

theorem closeSlot_storesInv (w : StoresInv s) : StoresInv s.closeSlot := by simpa [StoresInv, State.memWf] using w

/-- A slot that closes at a boundary has just driven the tone (40_cycle_fsm.md R78). -/
theorem closeSlot_tone (h : s.closeSlot.slot = 0) : s.closeSlot.tone = decide (0 < s.closeSlot.ST.toNat) := by
  by_cases h9 : s.slot.val = 9
  · rw [closeSlot_of_nine s h9]; rfl
  · rw [closeSlot_of_ne_nine s h9] at h
    exact absurd h (succ_slot_ne_zero s h9)

theorem hostKeyPress_inv (k : Nibble) (w : Inv s) : Inv (hostKeyPress k s) := by
  cases hr : s.run with
  | running => rwa [hostKeyPress_of_running s k hr]
  | paused x => rw [hostKeyPress_of_paused s k hr]; exact w

theorem hostReset_inv (s : State) : Inv (hostReset s) := ⟨Memory.wf_nil s.font, Nat.zero_le _, fun _ => rfl⟩

theorem copyBytes_inv {a : Nat} {bytes : List Byte} (fits : a + bytes.length ≤ Config.memSize) (w : Inv s) :
    Inv (copyBytes a bytes s) := by
  obtain ⟨hmem, hrest⟩ := w
  have hcopied := copyBytes_memWf s a bytes fits hmem
  rw [copyBytes_eq] at hcopied ⊢
  exact ⟨hcopied, hrest⟩

theorem hostOp_inv {o : HostOp} (h : hostOp o s = .next t) (w : Inv s) : Inv t := by
  cases o with
  | keyPress k => cases h; exact hostKeyPress_inv k w
  | setKeys levels => cases h; exact w
  | reset => cases h; exact hostReset_inv s
  | load bytes =>
    obtain ⟨-, ⟨fits, rfl⟩ | ⟨-, rfl⟩⟩ := hostLoad_cases h
    · exact copyBytes_inv (a := Config.progBase) (show 0x200 + bytes.length ≤ 4096 by omega) w
    · exact w

/-- Settles O55, by the cases of a step: a host operation keeps the whole invariant; a slot keeps what it says of memory and the stack, and its
closing makes the tone right where a boundary follows. -/
theorem stepKeepsTheInvariant : Obligations.StepKeepsTheInvariant := by
  unfold Obligations.StepKeepsTheInvariant
  intro s t w h
  obtain ⟨o, q, -, -, hop⟩ | ⟨-, u, hslot, rfl⟩ := step_cases s h
  · have hqueue : Inv (s.withQueue q) := w
    exact hostOp_inv hop hqueue
  · obtain ⟨hmem, hdepth, -⟩ := w
    obtain ⟨hmem', hdepth'⟩ := closeSlot_storesInv (slotStep_storesInv hslot (openSlot_storesInv ⟨hmem, hdepth⟩))
    exact ⟨hmem', hdepth', closeSlot_tone⟩

/-! The host's queue inside a tick-group. `s.withQueue q` also clears the report port, so the queue alone is replaced by `setQueue`. -/

/-- The state with `q` as what the host has queued. -/
def setQueue (q : List HostEvent) (s : State) : State := { s with hostQueue := q }

theorem skipIf_setQueue (q : List HostEvent) (s : State) (c : Bool) :
    (setQueue q s).skipIf c = setQueue q (s.skipIf c) := by cases c <;> rfl

theorem rndTake_setQueue (q : List HostEvent) (s : State) : (setQueue q s).rndTake = setQueue q s.rndTake := by
  cases hs : s.rndInput <;> simp [State.rndTake, setQueue, hs]

theorem drawPixel_setQueue (q : List HostEvent) (s : State) (x y : Nat) :
    drawPixel x y (setQueue q s) = setQueue q (drawPixel x y s) := by
  rw [drawPixel_eq, drawPixel_eq, apply_ite (setQueue q)]; rfl

theorem execRet_setQueue (q : List HostEvent) (s : State) :
    execRet (setQueue q s) = onNext (setQueue q) (execRet s) := by
  cases hs : s.stack with
  | nil => rw [execRet_of_nil s hs]; exact execRet_of_nil (setQueue q s) hs
  | cons a rest => rw [execRet_of_cons s hs]; exact execRet_of_cons (setQueue q s) hs

theorem execCall_setQueue (q : List HostEvent) (nnn : Addr12) (s : State) :
    execCall nnn (setQueue q s) = onNext (setQueue q) (execCall nnn s) := by
  rcases Nat.lt_or_ge s.stack.length Config.stackDepth with room | full
  · rw [execCall_of_room s nnn room]; exact execCall_of_room (setQueue q s) nnn room
  · rw [execCall_of_full s nnn full]; exact execCall_of_full (setQueue q s) nnn full

/-- The execute phase neither reads nor writes the host's queue (10_state.md R20). -/
theorem exec_setQueue (q : List HostEvent) (i : Instr) (s : State) :
    exec i (setQueue q s) = onNext (setQueue q) (exec i s) := by
  cases i with
  | ret => exact execRet_setQueue q s
  | call nnn => exact execCall_setQueue q nnn s
  | seVxKk | sneVxKk | seVxVy | sneVxVy | skp | sknp => exact congrArg Host.Outcome.next (skipIf_setQueue q s _)
  | rnd x kk => exact congrArg (fun u => Host.Outcome.next (u.setV x (s.rndNext &&& kk))) (rndTake_setQueue q s)
  | drw x y n => exact congrArg Host.Outcome.next (drawSprite_commute (s.setFlag 0) (drawPixel_setQueue q) (fun _ _ => rfl) _ _ _)
  | ldMemVx => exact congrArg Host.Outcome.next (foldl_commute s (setQueue q) _ (fun _ _ => rfl) _)
  | ldVxMem => exact congrArg Host.Outcome.next (foldl_commute s (setQueue q) _ (fun _ _ => rfl) _)
  | _ => rfl

theorem slotStep_setQueue (q : List HostEvent) (s : State) :
    slotStep (setQueue q s) = onNext (setQueue q) (slotStep s) := by
  cases hr : s.run with
  | paused x => rw [slotStep_of_paused s hr]; exact slotStep_of_paused (setQueue q s) hr
  | running =>
    cases hd : decodeWord s.fetchWord with
    | ok i => rw [slotStep_of_ok s hr hd, ← exec_setQueue]; exact slotStep_of_ok (setQueue q s) hr hd
    | error e => rw [slotStep_of_error s hr hd]; exact slotStep_of_error (setQueue q s) hr hd

theorem closeSlot_setQueue (q : List HostEvent) (s : State) : (setQueue q s).closeSlot = setQueue q s.closeSlot := by
  by_cases h9 : s.slot.val = 9
  · rw [closeSlot_of_nine s h9]; exact closeSlot_of_nine (setQueue q s) h9
  · rw [closeSlot_of_ne_nine s h9]; exact closeSlot_of_ne_nine (setQueue q s) h9

/-- A slot does not touch what the host sets: the key levels and the queue (10_state.md R20). -/
theorem slotStep_keeps_host_inputs (h : slotStep s = .next t) : t.keys = s.keys ∧ t.hostQueue = s.hostQueue := by
  obtain ⟨i, -, -, hexec⟩ | ⟨_, -, -, rfl⟩ | ⟨_, -, rfl⟩ := slotStep_cases s h
  · obtain ⟨-, -, hkeys, hqueue, -⟩ := exec_sameSurroundings hexec
    exact ⟨hkeys, hqueue⟩
  · exact ⟨rfl, rfl⟩
  · exact ⟨rfl, rfl⟩

/-- Settles O42: a step inside a tick-group is one slot, and the opening, the slot and the closing each commute with replacing the queue. -/
theorem hostActsOnlyBetweenTickGroups : Obligations.HostActsOnlyBetweenTickGroups := by
  unfold Obligations.HostActsOnlyBetweenTickGroups
  intro q s hs
  constructor
  · calc step (setQueue q s) = onNext State.closeSlot (slotStep (setQueue q s.quiet)) := step_of_ne_zero _ hs
      _ = onNext (fun u => (setQueue q u).closeSlot) (slotStep s.quiet) := by rw [slotStep_setQueue, onNext_onNext]
      _ = onNext (setQueue q) (onNext State.closeSlot (slotStep s.quiet)) := by
        simp only [closeSlot_setQueue, onNext_onNext]
      _ = onNext (setQueue q) (step s) := by rw [step_of_ne_zero s hs]
  · intro t ht
    rw [step_of_ne_zero s hs] at ht
    obtain ⟨u, hslot, rfl⟩ := onNext_eq_next ht
    obtain ⟨hkeys, hqueue⟩ := slotStep_keeps_host_inputs hslot
    rw [closeSlot_keys, closeSlot_hostQueue]
    exact ⟨hkeys, hqueue⟩

end Sys2Proof.Machine
end

section
/-! PROOFS, 20_memory.md. The cell an address selects, the fetched word as two cells, and the host's load. -/

namespace Sys2Proof.Machine

variable (s : State)

/-- The address after `a` selects the next cell, from 4095 on to 0 (20_memory.md R31). -/
theorem cellOf_succ (a : Word) : cellOf (a + 1) = (a.toNat + 1) % 4096 := by
  have hone : (1 : Word).toNat = 1 := rfl
  rw [cellOf_eq, BitVec.toNat_add, hone]; omega

theorem State.effAddr_succ (r : Nat) : s.effAddr r + 1 = s.effAddr (r + 1) := by
  rw [State.effAddr, State.effAddr, BitVec.ofNat_add, BitVec.add_assoc]; rfl

/-- The fetched word as a number, high byte first (20_memory.md R35). -/
theorem State.fetchWord_toNat :
    s.fetchWord.toNat = 256 * (s.readByte s.pc).toNat + (s.readByte (s.pc + 1)).toNat := wordOf_toNat _ _

/-- Settles O29, by the law of a cell read after a cell write and the two cells of a fetch. -/
theorem addressesSelectCellsModulo4096 : Obligations.AddressesSelectCellsModulo4096 := by
  unfold Obligations.AddressesSelectCellsModulo4096
  intro a v s
  refine ⟨rfl, fun c => State.readCell_writeCell s (cellOf a) c v, rfl, ?_⟩
  rw [State.fetchWord_toNat, State.readByte, State.readByte, cellOf_succ, cellOf_eq]

/-- Settles O28: the stores leave `pc`, so the fetch after them reads the cells of `I + r` and `I + (r + 1)`. -/
theorem storeIsSeenByTheNextFetch : Obligations.StoreIsSeenByTheNextFetch := by
  unfold Obligations.StoreIsSeenByTheNextFetch
  intro x r s t hr hpc hexec
  cases hexec
  obtain ⟨hstored, -⟩ := storeRegs_readByte s (show x.toNat + 1 ≤ 4096 by omega)
  have hpc' : (storeRegs (x.toNat + 1) s).pc = s.effAddr r := by rw [storeRegs_eq]; exact hpc
  rw [State.fetchWord_toNat, hpc', State.effAddr_succ, hstored r (by omega), hstored (r + 1) (by omega)]
  rfl

/-! The host's load (20_memory.md R43). -/

theorem copyBytes_readCell_add (a : Nat) {bytes : List Byte} {i : Nat} (h : i < bytes.length) :
    (copyBytes a bytes s).readCell (a + i) = bytes[i] := by
  rw [copyBytes_readCell, dif_pos (by omega)]
  simp

theorem copyBytes_readCell_of_outside {a c : Nat} {bytes : List Byte} (h : c < a ∨ a + bytes.length ≤ c) :
    (copyBytes a bytes s).readCell c = s.readCell c := by
  rw [copyBytes_readCell, dif_neg (by omega)]

/-- An address below 4096 selects the cell of its own number (20_memory.md R31). -/
theorem cellOf_ofNat {n : Nat} (h : n < 4096) : cellOf (BitVec.ofNat 16 n) = n := by
  rw [cellOf_eq, BitVec.toNat_ofNat]; omega

/-- Settles O45: the step is the load, and a load that fits copies its bytes and no more. -/
theorem loadCopiesOrIsRefused : Obligations.LoadCopiesOrIsRefused := by
  unfold Obligations.LoadCopiesOrIsRefused
  intro bytes q s hslot hqueue hallowed
  rw [step_of_op s hslot hqueue]
  constructor
  · intro fits
    refine ⟨_, hostLoad_of_fits (s.withQueue q) hallowed fits, ?_, ?_, ?_⟩
    · intro i hi
      have hcell : cellOf (BitVec.ofNat 16 (0x200 + i)) = 0x200 + i := cellOf_ofNat (by omega)
      rw [State.readByte, hcell]
      exact copyBytes_readCell_add (s.withQueue q) 0x200 hi
    · intro a houtside
      exact copyBytes_readCell_of_outside (s.withQueue q) houtside
    · rw [copyBytes_eq]; rfl
  · exact hostLoad_of_long (s.withQueue q) hallowed

end Sys2Proof.Machine
end

section
/-! PROOFS, 30_encoding.md. The rows of the opcode map as conditions on the fields of a word, at most one of them for each word, and the decoder and the encoder as
inverses of each other. -/

namespace Sys2Proof

open Sys2Proof.Laws

variable {op v m : Word} {build : Word → Instr}

/-! A word from its fields (30_encoding.md R51, R52). -/

theorem fieldKk_eq_append (op : Word) : fieldKk op = fieldY op ++ fieldN op := by
  rw [← fieldKk_packXyn (fieldTop op) (fieldX op) (fieldY op) (fieldN op), ← word_eq_packXyn]

theorem packXkk_fields (op : Word) : packXkk (fieldTop op) (fieldX op) (fieldKk op) = op := by
  rw [fieldKk_eq_append]; exact (word_eq_packXyn op).symm

theorem packNnn_fields (op : Word) : packNnn (fieldTop op) (fieldNnn op) = op := by
  apply BitVec.eq_of_getLsbD_eq
  intro i hi
  simp only [fieldTop, fieldNnn, packNnn, BitVec.getLsbD_extractLsb', BitVec.getLsbD_append]
  interval_cases i <;> simp

/-! A row fixes the top digit, the top and the last digit, or the top digit and the last two (30_encoding.md R54, R55). -/

/-- A mask that covers a field keeps it. -/
theorem extractLsb'_and_of_allOnes {n start : Nat} (covered : m.extractLsb' start n = BitVec.allOnes n) :
    (op &&& m).extractLsb' start n = op.extractLsb' start n := by
  rw [BitVec.extractLsb'_and, covered, BitVec.and_allOnes]

theorem fieldTop_eq_of_rowMatches (covered : fieldTop m = BitVec.allOnes 4) (h : rowMatches ⟨m, v, build⟩ op = true) :
    fieldTop op = fieldTop v :=
  (extractLsb'_and_of_allOnes covered).symm.trans (congrArg fieldTop (beq_iff_eq.mp h))

theorem fieldN_eq_of_rowMatches (covered : fieldN m = BitVec.allOnes 4) (h : rowMatches ⟨m, v, build⟩ op = true) :
    fieldN op = fieldN v :=
  (extractLsb'_and_of_allOnes covered).symm.trans (congrArg fieldN (beq_iff_eq.mp h))

theorem fieldKk_eq_of_rowMatches (covered : fieldKk m = BitVec.allOnes 8) (h : rowMatches ⟨m, v, build⟩ op = true) :
    fieldKk op = fieldKk v :=
  (extractLsb'_and_of_allOnes covered).symm.trans (congrArg fieldKk (beq_iff_eq.mp h))

theorem rowMatches_full : rowMatches ⟨0xFFFF, v, build⟩ op = true ↔ op = v := by
  have hall : (0xFFFF : Word) = BitVec.allOnes 16 := by decide
  rw [rowMatches, beq_iff_eq, hall, BitVec.and_allOnes]

theorem and_top_eq (op : Word) : op &&& 0xF000 = fieldTop op ++ (0 : BitVec 12) := by
  simpa only [packNnn_fields] using packNnn_and_top (fieldTop op) (fieldNnn op)

theorem and_topN_eq (op : Word) : op &&& 0xF00F = fieldTop op ++ ((0 : BitVec 8) ++ fieldN op) := by
  simpa only [← word_eq_packXyn] using packXyn_and_topN (fieldTop op) (fieldX op) (fieldY op) (fieldN op)

theorem and_topKk_eq (op : Word) : op &&& 0xF0FF = fieldTop op ++ ((0 : BitVec 4) ++ fieldKk op) := by
  simpa only [packXkk_fields] using packXkk_and_topKk (fieldTop op) (fieldX op) (fieldKk op)

theorem rowMatches_top (hv : v &&& 0xF000 = v) :
    rowMatches ⟨0xF000, v, build⟩ op = true ↔ fieldTop op = fieldTop v := by
  refine ⟨fieldTop_eq_of_rowMatches (by decide), fun htop => beq_iff_eq.mpr ?_⟩
  rw [and_top_eq, htop, ← and_top_eq, hv]

theorem rowMatches_topN (hv : v &&& 0xF00F = v) :
    rowMatches ⟨0xF00F, v, build⟩ op = true ↔ fieldTop op = fieldTop v ∧ fieldN op = fieldN v := by
  constructor
  · exact fun h => ⟨fieldTop_eq_of_rowMatches (by decide) h, fieldN_eq_of_rowMatches (by decide) h⟩
  · rintro ⟨htop, hn⟩
    rw [rowMatches, beq_iff_eq, and_topN_eq, htop, hn, ← and_topN_eq, hv]

theorem rowMatches_topKk (hv : v &&& 0xF0FF = v) :
    rowMatches ⟨0xF0FF, v, build⟩ op = true ↔ fieldTop op = fieldTop v ∧ fieldKk op = fieldKk v := by
  constructor
  · exact fun h => ⟨fieldTop_eq_of_rowMatches (by decide) h, fieldKk_eq_of_rowMatches (by decide) h⟩
  · rintro ⟨htop, hkk⟩
    rw [rowMatches, beq_iff_eq, and_topKk_eq, htop, hkk, ← and_topKk_eq, hv]

/-! At most one row for each word. -/

/-- Two rows that one word matches agree on the bits both masks fix. -/
theorem value_and_mask_eq_of_rowMatches {a b : OpcodeRow} (ha : rowMatches a op = true) (hb : rowMatches b op = true) :
    a.value &&& b.mask = b.value &&& a.mask := by
  calc a.value &&& b.mask = op &&& a.mask &&& b.mask := by rw [beq_iff_eq.mp ha]
    _ = op &&& b.mask &&& a.mask := by rw [BitVec.and_assoc, BitVec.and_comm a.mask, BitVec.and_assoc]
    _ = b.value &&& a.mask := by rw [beq_iff_eq.mp hb]

/-- Settles O3: any two rows differ on a bit that both masks fix. -/
theorem noTwoPatternsOverlap : Obligations.NoTwoPatternsOverlap := by
  unfold Obligations.NoTwoPatternsOverlap
  have hdiffer : opcodeMap.Pairwise (fun a b => a.value &&& b.mask ≠ b.value &&& a.mask) := by decide
  exact hdiffer.imp fun hne op ⟨ha, hb⟩ => hne (value_and_mask_eq_of_rowMatches ha hb)

theorem eq_of_rowMatches {a b : OpcodeRow} (ha : a ∈ opcodeMap) (hb : b ∈ opcodeMap)
    (hma : rowMatches a op = true) (hmb : rowMatches b op = true) : a = b := by
  by_contra hne
  have hsymm : Std.Symm fun a b : OpcodeRow => ∀ op : Word, ¬ (rowMatches a op = true ∧ rowMatches b op = true) :=
    ⟨fun _ _ h w hw => h w hw.symm⟩
  exact noTwoPatternsOverlap.forall ha hb hne op ⟨hma, hmb⟩

/-- The decoder answers the row a word matches, wherever it stands in the map. -/
theorem decodeWord_of_rowMatches {r : OpcodeRow} (hr : r ∈ opcodeMap) (hm : rowMatches r op = true) :
    decodeWord op = .ok (r.build op) := by
  cases hd : decodeWord op with
  | ok i =>
    obtain ⟨r', hr', hm', rfl⟩ := exists_row_of_decodeWord hd
    rw [eq_of_rowMatches hr' hr hm' hm]
  | error e =>
    unfold decodeWord at hd
    split at hd
    · cases hd
    · next hnone => exact absurd hm (List.find?_eq_none.mp hnone r hr)

/-! Decode after encode. -/

theorem wellFormed_and_encodesInRow : ∀ i : Instr, WellFormedOperands.Statement i ∧ EncodesInRow.Statement i
  | .cls => ⟨WellFormedOperands.cls, EncodesInRow.cls⟩
  | .ret => ⟨WellFormedOperands.ret, EncodesInRow.ret⟩
  | .jp nnn => ⟨WellFormedOperands.jp nnn, EncodesInRow.jp nnn⟩
  | .call nnn => ⟨WellFormedOperands.call nnn, EncodesInRow.call nnn⟩
  | .seVxKk x kk => ⟨WellFormedOperands.seVxKk x kk, EncodesInRow.seVxKk x kk⟩
  | .sneVxKk x kk => ⟨WellFormedOperands.sneVxKk x kk, EncodesInRow.sneVxKk x kk⟩
  | .seVxVy x y => ⟨WellFormedOperands.seVxVy x y, EncodesInRow.seVxVy x y⟩
  | .ldVxKk x kk => ⟨WellFormedOperands.ldVxKk x kk, EncodesInRow.ldVxKk x kk⟩
  | .addVxKk x kk => ⟨WellFormedOperands.addVxKk x kk, EncodesInRow.addVxKk x kk⟩
  | .ldVxVy x y => ⟨WellFormedOperands.ldVxVy x y, EncodesInRow.ldVxVy x y⟩
  | .or x y => ⟨WellFormedOperands.or x y, EncodesInRow.or x y⟩
  | .and x y => ⟨WellFormedOperands.and x y, EncodesInRow.and x y⟩
  | .xor x y => ⟨WellFormedOperands.xor x y, EncodesInRow.xor x y⟩
  | .addVxVy x y => ⟨WellFormedOperands.addVxVy x y, EncodesInRow.addVxVy x y⟩
  | .sub x y => ⟨WellFormedOperands.sub x y, EncodesInRow.sub x y⟩
  | .shr x y => ⟨WellFormedOperands.shr x y, EncodesInRow.shr x y⟩
  | .subn x y => ⟨WellFormedOperands.subn x y, EncodesInRow.subn x y⟩
  | .shl x y => ⟨WellFormedOperands.shl x y, EncodesInRow.shl x y⟩
  | .sneVxVy x y => ⟨WellFormedOperands.sneVxVy x y, EncodesInRow.sneVxVy x y⟩
  | .ldINnn nnn => ⟨WellFormedOperands.ldINnn nnn, EncodesInRow.ldINnn nnn⟩
  | .jpV0 nnn => ⟨WellFormedOperands.jpV0 nnn, EncodesInRow.jpV0 nnn⟩
  | .rnd x kk => ⟨WellFormedOperands.rnd x kk, EncodesInRow.rnd x kk⟩
  | .drw x y n => ⟨WellFormedOperands.drw x y n, EncodesInRow.drw x y n⟩
  | .skp x => ⟨WellFormedOperands.skp x, EncodesInRow.skp x⟩
  | .sknp x => ⟨WellFormedOperands.sknp x, EncodesInRow.sknp x⟩
  | .ldVxDt x => ⟨WellFormedOperands.ldVxDt x, EncodesInRow.ldVxDt x⟩
  | .ldVxK x => ⟨WellFormedOperands.ldVxK x, EncodesInRow.ldVxK x⟩
  | .ldDtVx x => ⟨WellFormedOperands.ldDtVx x, EncodesInRow.ldDtVx x⟩
  | .ldStVx x => ⟨WellFormedOperands.ldStVx x, EncodesInRow.ldStVx x⟩
  | .addIVx x => ⟨WellFormedOperands.addIVx x, EncodesInRow.addIVx x⟩
  | .ldFVx x => ⟨WellFormedOperands.ldFVx x, EncodesInRow.ldFVx x⟩
  | .ldBVx x => ⟨WellFormedOperands.ldBVx x, EncodesInRow.ldBVx x⟩
  | .ldMemVx x => ⟨WellFormedOperands.ldMemVx x, EncodesInRow.ldMemVx x⟩
  | .ldVxMem x => ⟨WellFormedOperands.ldVxMem x, EncodesInRow.ldVxMem x⟩

@[simp] theorem decodeWord_encodeWord (i : Instr) : decodeWord (encodeWord i) = .ok i := by
  obtain ⟨-, r, hr, hm, hbuild⟩ := wellFormed_and_encodesInRow i
  rw [decodeWord_of_rowMatches hr hm, hbuild]

/-- Settles O1, from the decoder on the word of an instruction and the two bytes of that word. -/
theorem decodeOfEncodeIsTheInstruction : Obligations.DecodeOfEncodeIsTheInstruction := by
  unfold Obligations.DecodeOfEncodeIsTheInstruction
  intro i rest
  obtain ⟨hwf, -⟩ := wellFormed_and_encodesInRow i
  have hdecode : decode (encode i ++ rest) = .ok (i, rest) := by
    rw [encode, List.cons_append, List.cons_append, List.nil_append, decode_cons_cons, wordOf_bytes, decodeWord_encodeWord]
  exact ⟨hwf, hdecode⟩

/-! Encode after decode. One lemma per format, applied to each row of the map. -/

/-- The row keeps every bit of the words that match it: the instruction it builds encodes to the word again. -/
def OpcodeRow.Faithful (r : OpcodeRow) : Prop := ∀ op : Word, rowMatches r op = true → encodeWord (r.build op) = op

theorem faithful_fixed {i : Instr} (henc : encodeWord i = v) : OpcodeRow.Faithful ⟨0xFFFF, v, fun _ => i⟩ :=
  fun _ h => henc.trans (rowMatches_full.mp h).symm

theorem faithful_nnn {c : Addr12 → Instr} (henc : ∀ a, encodeWord (c a) = packNnn (fieldTop v) a) :
    OpcodeRow.Faithful ⟨0xF000, v, fun op => c (fieldNnn op)⟩ := by
  intro op h
  rw [henc, ← fieldTop_eq_of_rowMatches (by decide) h, packNnn_fields]

theorem faithful_xkk {c : RegNo → Byte → Instr} (henc : ∀ x k, encodeWord (c x k) = packXkk (fieldTop v) x k) :
    OpcodeRow.Faithful ⟨0xF000, v, fun op => c (fieldX op) (fieldKk op)⟩ := by
  intro op h
  rw [henc, ← fieldTop_eq_of_rowMatches (by decide) h, packXkk_fields]

theorem faithful_xyn {c : RegNo → RegNo → Nibble → Instr} (henc : ∀ x y n, encodeWord (c x y n) = packXyn (fieldTop v) x y n) :
    OpcodeRow.Faithful ⟨0xF000, v, fun op => c (fieldX op) (fieldY op) (fieldN op)⟩ := by
  intro op h
  rw [henc, ← fieldTop_eq_of_rowMatches (by decide) h, ← word_eq_packXyn]

theorem faithful_xy {c : RegNo → RegNo → Instr} (henc : ∀ x y, encodeWord (c x y) = packXyn (fieldTop v) x y (fieldN v)) :
    OpcodeRow.Faithful ⟨0xF00F, v, fun op => c (fieldX op) (fieldY op)⟩ := by
  intro op h
  rw [henc, ← fieldTop_eq_of_rowMatches (by decide) h, ← fieldN_eq_of_rowMatches (by decide) h, ← word_eq_packXyn]

theorem faithful_x {c : RegNo → Instr} (henc : ∀ x, encodeWord (c x) = packXkk (fieldTop v) x (fieldKk v)) :
    OpcodeRow.Faithful ⟨0xF0FF, v, fun op => c (fieldX op)⟩ := by
  intro op h
  rw [henc, ← fieldTop_eq_of_rowMatches (by decide) h, ← fieldKk_eq_of_rowMatches (by decide) h, packXkk_fields]

theorem faithful_of_mem_low : ∀ r ∈ opcodeMapLow, r.Faithful := by
  simp only [opcodeMapLow, List.forall_mem_cons]
  exact ⟨faithful_fixed rfl, faithful_fixed rfl, faithful_nnn fun _ => rfl, faithful_nnn fun _ => rfl,
    faithful_xkk fun _ _ => rfl, faithful_xkk fun _ _ => rfl, faithful_xy fun _ _ => rfl, faithful_xkk fun _ _ => rfl,
    faithful_xkk fun _ _ => rfl, List.forall_mem_nil _⟩

theorem faithful_of_mem_eight : ∀ r ∈ opcodeMapEight, r.Faithful := by
  simp only [opcodeMapEight, List.forall_mem_cons]
  exact ⟨faithful_xy fun _ _ => rfl, faithful_xy fun _ _ => rfl, faithful_xy fun _ _ => rfl, faithful_xy fun _ _ => rfl,
    faithful_xy fun _ _ => rfl, faithful_xy fun _ _ => rfl, faithful_xy fun _ _ => rfl, faithful_xy fun _ _ => rfl,
    faithful_xy fun _ _ => rfl, List.forall_mem_nil _⟩

theorem faithful_of_mem_middle : ∀ r ∈ opcodeMapMiddle, r.Faithful := by
  simp only [opcodeMapMiddle, List.forall_mem_cons]
  exact ⟨faithful_xy fun _ _ => rfl, faithful_nnn fun _ => rfl, faithful_nnn fun _ => rfl, faithful_xkk fun _ _ => rfl,
    faithful_xyn fun _ _ _ => rfl, faithful_x fun _ => rfl, faithful_x fun _ => rfl, List.forall_mem_nil _⟩

theorem faithful_of_mem_F : ∀ r ∈ opcodeMapF, r.Faithful := by
  simp only [opcodeMapF, List.forall_mem_cons]
  exact ⟨faithful_x fun _ => rfl, faithful_x fun _ => rfl, faithful_x fun _ => rfl, faithful_x fun _ => rfl,
    faithful_x fun _ => rfl, faithful_x fun _ => rfl, faithful_x fun _ => rfl, faithful_x fun _ => rfl,
    faithful_x fun _ => rfl, List.forall_mem_nil _⟩

theorem faithful_of_mem {r : OpcodeRow} (hr : r ∈ opcodeMap) : r.Faithful := by
  simp only [opcodeMap, List.mem_append] at hr
  obtain ((hr | hr) | hr) | hr := hr
  · exact faithful_of_mem_low r hr
  · exact faithful_of_mem_eight r hr
  · exact faithful_of_mem_middle r hr
  · exact faithful_of_mem_F r hr

/-- Settles O2: the word decoded by a row of the map, and every row of it is faithful. -/
theorem encodeOfDecodeIsTheWord : Obligations.EncodeOfDecodeIsTheWord := by
  unfold Obligations.EncodeOfDecodeIsTheWord
  intro op i hd
  obtain ⟨r, hr, hm, rfl⟩ := exists_row_of_decodeWord hd
  exact faithful_of_mem hr op hm

/-! The words no row matches (30_encoding.md R56). -/

theorem decodeWord_eq_error_iff : decodeWord op = .error (.unrecognised op) ↔ ¬ ∃ r ∈ opcodeMap, rowMatches r op = true := by
  constructor
  · rintro hd ⟨r, hr, hm⟩
    rw [decodeWord_of_rowMatches hr hm] at hd
    cases hd
  · intro hnone
    cases hd : decodeWord op with
    | ok i =>
      obtain ⟨r, hr, hm, -⟩ := exists_row_of_decodeWord hd
      exact absurd ⟨r, hr, hm⟩ hnone
    | error e => rw [eq_of_decodeWord_error hd]

theorem exists_row_low_iff : (∃ r ∈ opcodeMapLow, rowMatches r op = true) ↔
    (fieldTop op = 0 ∧ (op = 0x00E0 ∨ op = 0x00EE)) ∨ fieldTop op = 1 ∨ fieldTop op = 2 ∨ fieldTop op = 3 ∨ fieldTop op = 4 ∨
    (fieldTop op = 5 ∧ fieldN op = 0) ∨ fieldTop op = 6 ∨ fieldTop op = 7 := by
  have htop : op = 0x00E0 ∨ op = 0x00EE → fieldTop op = 0 := by rintro (rfl | rfl) <;> decide
  simp (disch := decide) only [opcodeMapLow, List.exists_mem_cons_iff, rowMatches_full, rowMatches_top, rowMatches_topN,
    List.not_mem_nil, false_and, exists_false, or_false]
  rw [and_iff_right_of_imp htop, or_assoc]
  exact Iff.rfl

theorem exists_row_eight_iff : (∃ r ∈ opcodeMapEight, rowMatches r op = true) ↔
    fieldTop op = 8 ∧ fieldN op ∈ ([0, 1, 2, 3, 4, 5, 6, 7, 0xE] : List (BitVec 4)) := by
  simp (disch := decide) only [opcodeMapEight, List.exists_mem_cons_iff, rowMatches_topN,
    List.not_mem_nil, false_and, exists_false, or_false]
  simp only [List.mem_cons, List.not_mem_nil, or_false, and_or_left]
  exact Iff.rfl

theorem exists_row_middle_iff : (∃ r ∈ opcodeMapMiddle, rowMatches r op = true) ↔
    (fieldTop op = 9 ∧ fieldN op = 0) ∨ fieldTop op = 0xA ∨ fieldTop op = 0xB ∨ fieldTop op = 0xC ∨ fieldTop op = 0xD ∨
    fieldTop op = 0xE ∧ fieldKk op ∈ ([0x9E, 0xA1] : List Byte) := by
  simp (disch := decide) only [opcodeMapMiddle, List.exists_mem_cons_iff, rowMatches_top, rowMatches_topN, rowMatches_topKk,
    List.not_mem_nil, false_and, exists_false, or_false]
  simp only [List.mem_cons, List.not_mem_nil, or_false, and_or_left]
  exact Iff.rfl

theorem exists_row_F_iff : (∃ r ∈ opcodeMapF, rowMatches r op = true) ↔
    fieldTop op = 0xF ∧ fieldKk op ∈ ([0x07, 0x0A, 0x15, 0x18, 0x1E, 0x29, 0x33, 0x55, 0x65] : List Byte) := by
  simp (disch := decide) only [opcodeMapF, List.exists_mem_cons_iff, rowMatches_topKk,
    List.not_mem_nil, false_and, exists_false, or_false]
  simp only [List.mem_cons, List.not_mem_nil, or_false, and_or_left]
  exact Iff.rfl

theorem exists_row_iff : (∃ r ∈ opcodeMap, rowMatches r op = true) ↔
    (∃ r ∈ opcodeMapLow, rowMatches r op = true) ∨ (∃ r ∈ opcodeMapEight, rowMatches r op = true) ∨
    (∃ r ∈ opcodeMapMiddle, rowMatches r op = true) ∨ (∃ r ∈ opcodeMapF, rowMatches r op = true) := by
  simp only [opcodeMap, List.mem_append, or_and_right, exists_or, or_assoc]

/-- The last digits of family 8 that no row has are the other seven. -/
theorem not_mem_rows_eight_iff : ∀ n : BitVec 4, n ∉ ([0, 1, 2, 3, 4, 5, 6, 7, 0xE] : List (BitVec 4)) ↔
    n ∈ ([0x8, 0x9, 0xA, 0xB, 0xC, 0xD, 0xF] : List (BitVec 4)) := by decide

/-- A top digit is that of family 0, of a family whose words are all instructions, or of a family with further fixed digits. -/
theorem family_cases : ∀ top : BitVec 4, top = 0 ∨ top ∈ ([1, 2, 3, 4, 6, 7, 0xA, 0xB, 0xC, 0xD] : List (BitVec 4)) ∨
    top ∈ ([5, 8, 9, 0xE, 0xF] : List (BitVec 4)) := by decide

/-- Settles O4, family by family: the fields that no row of the family has. -/
theorem unrecognisedWordsAreThoseListed : Obligations.UnrecognisedWordsAreThoseListed := by
  unfold Obligations.UnrecognisedWordsAreThoseListed
  intro op
  rw [decodeWord_eq_error_iff, exists_row_iff, exists_row_low_iff, exists_row_eight_iff, exists_row_middle_iff, exists_row_F_iff,
    ← not_mem_rows_eight_iff]
  generalize fieldTop op = top
  obtain rfl | hall | hsome := family_cases top
  · simp
  · simp only [List.mem_cons, List.not_mem_nil, or_false] at hall
    rcases hall with rfl | rfl | rfl | rfl | rfl | rfl | rfl | rfl | rfl | rfl <;> simp
  · simp only [List.mem_cons, List.not_mem_nil, or_false] at hsome
    rcases hsome with rfl | rfl | rfl | rfl | rfl <;> simp

/-- Settles O5, by running the decoder on each of the ten words. -/
theorem listedWordsDecodeAsWritten : Obligations.ListedWordsDecodeAsWritten := by
  unfold Obligations.ListedWordsDecodeAsWritten
  decide

end Sys2Proof
end

section
/-! PROOFS, shared layer. A change of what lies around the core's own state: the key levels, the random input, the slot. The execute phase carries it
along unseen, but for the instructions that read what it changes (40_cycle_fsm.md R80). -/

namespace Sys2Proof.Machine

open Sys2Proof.Safety

/-- A change of the inputs of 10_state.md R20 and of the slot (R21), each a function of the old value; a field that is not given changes nothing. -/
structure OuterChange where
  keys : BitVec Config.nkeys → BitVec Config.nkeys := id
  samples : List Byte → List Byte := id
  drawn : Nat → Nat := id
  slot : Fin Config.slotsPerTick → Fin Config.slotsPerTick := id

/-- The state after the change. -/
def OuterChange.apply (c : OuterChange) (s : State) : State :=
  { s with keys := c.keys s.keys, rndInput := c.samples s.rndInput, rndDrawn := c.drawn s.rndDrawn, slot := c.slot s.slot }

/-- The instructions that read the key levels (45_timers_keys.md R174, R175). -/
def readsKeys : Instr → Bool
  | .skp _ => true
  | .sknp _ => true
  | _ => false

/-- The change leaves alone what the instruction reads. -/
def OuterChange.UnseenBy (c : OuterChange) (i : Instr) : Prop :=
  (readsKeys i = true → c.keys = id) ∧ (drawsRandom i = true → c.samples = id ∧ c.drawn = id)

theorem readsKeys_eq_false {i : Instr} (hskp : ∀ x, i ≠ .skp x) (hsknp : ∀ x, i ≠ .sknp x) : readsKeys i = false := by
  cases i with
  | skp x => exact absurd rfl (hskp x)
  | sknp x => exact absurd rfl (hsknp x)
  | _ => rfl

theorem drawsRandom_eq_false {i : Instr} (h : ∀ x kk, i ≠ .rnd x kk) : drawsRandom i = false := by
  cases i with
  | rnd x kk => exact absurd rfl (h x kk)
  | _ => rfl

variable (c : OuterChange) (s : State)

theorem OuterChange.skipIf_apply (b : Bool) : (c.apply s).skipIf b = c.apply (s.skipIf b) := by cases b <;> rfl

theorem OuterChange.keyHeld_apply (h : c.keys = id) (k : Nibble) : (c.apply s).keyHeld k = s.keyHeld k := by
  simp [State.keyHeld, apply, h]

theorem OuterChange.rndNext_apply (hs : c.samples = id) (hd : c.drawn = id) : (c.apply s).rndNext = s.rndNext := by
  simp [State.rndNext, apply, hs, hd]

theorem OuterChange.rndTake_apply (hs : c.samples = id) (hd : c.drawn = id) :
    (c.apply s).rndTake = c.apply s.rndTake := by
  cases hr : s.rndInput <;> simp [State.rndTake, apply, hs, hd, hr]

theorem OuterChange.drawPixel_apply (x y : Nat) : drawPixel x y (c.apply s) = c.apply (drawPixel x y s) := by
  rw [drawPixel_eq, drawPixel_eq, apply_ite c.apply]; rfl

theorem OuterChange.execRet_apply : execRet (c.apply s) = onNext c.apply (execRet s) := by
  cases hs : s.stack with
  | nil => rw [execRet_of_nil s hs]; exact execRet_of_nil (c.apply s) hs
  | cons a rest => rw [execRet_of_cons s hs]; exact execRet_of_cons (c.apply s) hs

theorem OuterChange.execCall_apply (nnn : Addr12) :
    execCall nnn (c.apply s) = onNext c.apply (execCall nnn s) := by
  rcases Nat.lt_or_ge s.stack.length Config.stackDepth with room | full
  · rw [execCall_of_room s nnn room]; exact execCall_of_room (c.apply s) nnn room
  · rw [execCall_of_full s nnn full]; exact execCall_of_full (c.apply s) nnn full

/-- A change an instruction does not see may as well be made after it. -/
theorem exec_outerChange {i : Instr} (unseen : c.UnseenBy i) : exec i (c.apply s) = onNext c.apply (exec i s) := by
  obtain ⟨hkeys, hrandom⟩ := unseen
  cases i with
  | ret => exact c.execRet_apply s
  | call nnn => exact c.execCall_apply s nnn
  | seVxKk | sneVxKk | seVxVy | sneVxVy => exact congrArg Host.Outcome.next (c.skipIf_apply s _)
  | skp | sknp =>
    simp only [exec, execSkp, execSknp, c.keyHeld_apply s (hkeys rfl)]
    exact congrArg Host.Outcome.next (c.skipIf_apply s _)
  | rnd x kk =>
    obtain ⟨hs, hd⟩ := hrandom rfl
    rw [exec, execRnd, c.rndNext_apply s hs hd, c.rndTake_apply s hs hd]; rfl
  | drw x y n => exact congrArg Host.Outcome.next (drawSprite_commute (s.setFlag 0) c.drawPixel_apply (fun _ _ => rfl) _ _ _)
  | ldMemVx | ldVxMem => exact congrArg Host.Outcome.next (foldl_commute s c.apply _ (fun _ _ => rfl) _)
  | _ => rfl

end Sys2Proof.Machine
end

section
/-! PROOFS, 40_cycle_fsm.md. The slot and the step, what enters and leaves Paused, the tick-group as one operation, and the inputs an instruction depends
on. -/

namespace Sys2Proof.Machine

open Sys2Proof.Safety

variable {s t : State}

/-! The step of a Running core (R71 to R73). -/

theorem instructionStep_of_error {e : Reject} (hd : decodeWord s.fetchWord = .error e) :
    instructionStep s = .next (s.advance.emit (.badOpcode s.fetchWord s.pc)) := by
  unfold instructionStep; rw [hd]

/-- The step of a Running core without a host operation at hand is its instruction step, between opening and closing the slot. -/
theorem step_of_running (hr : s.run = .running) (hp : s.pendingOp = none) :
    step s = onNext State.closeSlot (instructionStep s.openSlot) := by
  rw [step_of_slot s hp, slotStep_of_running _ ((openSlot_run s).trans hr)]

theorem decodeWord_fetchWord_of_decode {i : Instr} (h : decode [s.readByte s.pc, s.readByte (s.pc + 1)] = .ok (i, [])) :
    decodeWord s.fetchWord = .ok i := by
  rw [decode_cons_cons] at h
  unfold State.fetchWord
  cases hd : decodeWord (wordOf (s.readByte s.pc) (s.readByte (s.pc + 1))) with
  | ok j => rw [hd] at h; cases h; rfl
  | error e => rw [hd] at h; cases h

/-- Settles O37: opening the slot leaves the mode, the two bytes and `pc` alone. -/
theorem stepRunsTheDecodedInstruction : Obligations.StepRunsTheDecodedInstruction := by
  unfold Obligations.StepRunsTheDecodedInstruction
  intro s i hr hp hdecode _
  have hword : decodeWord s.openSlot.fetchWord = .ok i := by
    rw [openSlot_fetchWord, decodeWord_fetchWord_of_decode hdecode]
  rw [step_of_slot s hp, slotStep_of_ok _ ((openSlot_run s).trans hr) hword, ← openSlot_pc s]
  rfl

/-- Settles O39: the number of the word is that of the fetched word, which the decoder rejects before and after the opening of the slot. -/
theorem unrecognisedWordIsReportedAndSkipped : Obligations.UnrecognisedWordIsReportedAndSkipped := by
  unfold Obligations.UnrecognisedWordIsReportedAndSkipped
  intro s op hr hp hnum hnone
  obtain rfl : op = s.fetchWord := BitVec.eq_of_toNat_eq (hnum.trans s.fetchWord_toNat.symm)
  cases hd : decodeWord s.fetchWord with
  | ok i => exact absurd hd (hnone i)
  | error e =>
    have hd' : decodeWord s.openSlot.fetchWord = .error e := by rw [openSlot_fetchWord, hd]
    refine ⟨instructionStep_of_error hd, ?_⟩
    rw [step_of_running hr hp, instructionStep_of_error hd', openSlot_fetchWord, ← openSlot_pc s]
    rfl

/-! The slot and the end of the tick-group (R75, R78). -/

/-- The tone after a tick-group: the sound timer was above 1 before its last tick. -/
theorem endGroup_tone_eq (s : State) : s.endGroup.tone = decide (1 < s.ST.toNat) := by
  rw [State.endGroup_tone, countDown_toNat, decide_eq_decide]; omega

/-- Opening slot 0 begins the tick-group. -/
theorem openSlot_of_zero (h : s.slot = 0) : s.openSlot = s.beginGroup.quiet := if_pos h

theorem closeSlot_slot_of_lt (h : s.slot.val < 9) : s.closeSlot.slot.val = s.slot.val + 1 := by
  rw [closeSlot_of_ne_nine s (by omega)]
  exact Nat.mod_eq_of_lt (Nat.succ_lt_succ h)

/-- Settles O38, by the cases of opening and of closing a slot. -/
theorem slotOpensAndCloses : Obligations.SlotOpensAndCloses := by
  unfold Obligations.SlotOpensAndCloses
  intro s
  refine ⟨openSlot_of_ne_zero s, openSlot_of_zero, fun hlt => ⟨closeSlot_slot_of_lt hlt, ?_⟩, fun h9 => ?_⟩
  · rw [closeSlot_of_ne_nine s (by omega)]
  · rw [closeSlot_of_nine s h9]
    exact ⟨rfl, countDown_toNat s.DT, countDown_toNat s.ST, endGroup_tone_eq s, rfl⟩

/-! Into and out of Paused (R74, R76, R77). -/

theorem exec_run {i : Instr} (h : exec i s = .next t) : t.run = s.run ∨ ∃ x, i = .ldVxK x ∧ t.run = .paused x := by
  cases hi : writesRunState i with
  | false =>
    obtain ⟨-, -, -, -, -, -, -, -, hrun, -⟩ := exec_frame h
    exact .inl (hrun hi)
  | true =>
    cases i with
    | ldVxK x => cases h; exact .inr ⟨x, rfl, rfl⟩
    | _ => cases hi

/-- A slot keeps Running or Paused, or is the Fx0A that pauses. -/
theorem slotStep_run (h : slotStep s = .next t) :
    t.run = s.run ∨ ∃ x, decodeWord s.fetchWord = .ok (.ldVxK x) ∧ s.run = .running ∧ t.run = .paused x := by
  obtain ⟨i, hr, hd, hexec⟩ | ⟨_, -, -, rfl⟩ | ⟨_, -, rfl⟩ := slotStep_cases s h
  · obtain hsame | ⟨x, rfl, hx⟩ := exec_run hexec
    · exact .inl hsame
    · exact .inr ⟨x, hd, hr, hx⟩
  · exact .inl rfl
  · exact .inl rfl

/-- A host operation keeps Running or Paused, or is a key press or a reset and leaves the core Running. -/
theorem hostOp_run {o : HostOp} (h : hostOp o s = .next t) :
    t.run = s.run ∨ (((∃ k, o = .keyPress k) ∨ o = .reset) ∧ t.run = .running) := by
  cases o with
  | keyPress k =>
    cases h
    cases hr : s.run with
    | running => rw [hostKeyPress_of_running s k hr]; exact .inl hr
    | paused x => rw [hostKeyPress_of_paused s k hr]; exact .inr ⟨.inl ⟨k, rfl⟩, rfl⟩
  | setKeys levels => cases h; exact .inl rfl
  | reset => cases h; exact .inr ⟨.inr rfl, rfl⟩
  | load bytes =>
    obtain ⟨-, ⟨-, rfl⟩ | ⟨-, rfl⟩⟩ := hostLoad_cases h
    · rw [copyBytes_eq]; exact .inl rfl
    · exact .inl rfl

/-- A step keeps Running or Paused, or runs the Fx0A that pauses, or is a key press or a reset at a boundary. -/
theorem step_run (h : step s = .next t) :
    t.run = s.run ∨ (∃ x, decodeWord s.fetchWord = .ok (.ldVxK x) ∧ s.run = .running ∧ t.run = .paused x) ∨
    (t.run = .running ∧ s.slot = 0 ∧
      ∃ q, (∃ k, s.hostQueue = .op (.keyPress k) :: q) ∨ s.hostQueue = .op .reset :: q) := by
  obtain ⟨o, q, h0, hq, hop⟩ | ⟨-, u, hslot, rfl⟩ := step_cases s h
  · obtain hsame | ⟨⟨k, rfl⟩ | rfl, hrun⟩ := hostOp_run hop
    · exact .inl hsame
    · exact .inr (.inr ⟨hrun, h0, q, .inl ⟨k, hq⟩⟩)
    · exact .inr (.inr ⟨hrun, h0, q, .inr hq⟩)
  · rw [closeSlot_run, ← openSlot_run s, ← openSlot_fetchWord s]
    obtain hsame | hpauses := slotStep_run hslot
    · exact .inl hsame
    · exact .inr (.inl hpauses)

/-- Settles O43: of the three cases of a step, one pauses a Running core and one resumes a Paused one. -/
theorem pausedIsEnteredAndLeftOnlyAsStated : Obligations.PausedIsEnteredAndLeftOnlyAsStated := by
  unfold Obligations.PausedIsEnteredAndLeftOnlyAsStated
  intro s t h
  constructor
  · intro x hs ht
    obtain hsame | ⟨y, hd, -, hy⟩ | ⟨hrun, -⟩ := step_run h
    · simp [hs, ht] at hsame
    · obtain rfl : x = y := RunState.paused.inj (ht.symm.trans hy)
      exact hd
    · simp [ht] at hrun
  · intro x hs ht
    obtain hsame | ⟨y, -, hr, -⟩ | ⟨-, hboundary⟩ := step_run h
    · simp [hs, ht] at hsame
    · simp [hs] at hr
    · exact hboundary

/-- Settles O44: the step is the key press, on a Paused or a Running core. -/
theorem keyPressEndsTheWait : Obligations.KeyPressEndsTheWait := by
  unfold Obligations.KeyPressEndsTheWait
  intro k q s h0 hq
  rw [step_of_op s h0 hq]
  constructor
  · intro x hx
    have hkey : hostOp (.keyPress k) (s.withQueue q) =
        .next { (s.withQueue q).setV x (k.setWidth 8) with run := .running } :=
      congrArg Host.Outcome.next (hostKeyPress_of_paused (s.withQueue q) k hx)
    refine ⟨_, hkey, ?_, fun r hr => State.getV_setV_ne (s.withQueue q) hr _, rfl⟩
    calc (((s.withQueue q).setV x (k.setWidth 8)).getV x).toNat
        = (k.setWidth 8).toNat := by rw [State.getV_setV_same]
      _ = k.toNat := by rw [BitVec.toNat_setWidth]; omega
  · intro hr
    exact congrArg Host.Outcome.next (hostKeyPress_of_running (s.withQueue q) k hr)

/-! The tick-group as one operation (R75). -/

/-- Paused slots only clear the report port (R76). -/
theorem runSlots_of_paused {x : RegNo} (k : Nat) (h : s.run = .paused x) : runSlots (k + 1) s = .next s.quiet := by
  have hslot : slotStep s.quiet = .next s.quiet := slotStep_of_paused s.quiet h
  induction k with
  | zero => rw [runSlots, hslot]; rfl
  | succ k ih => rw [runSlots, hslot]; exact ih

/-- Settles O40: the ten slots are Paused, and the timer tick and the tone follow. -/
theorem pausedTickGroupOnlyCountsTimers : Obligations.PausedTickGroupOnlyCountsTimers := by
  unfold Obligations.PausedTickGroupOnlyCountsTimers
  intro x s hx
  have hgroup : tickGroup s = .next s.beginGroup.quiet.endGroup :=
    congrArg (onNext State.endGroup) (runSlots_of_paused (s := s.beginGroup) 9 hx)
  exact ⟨_, hgroup, countDown_toNat s.DT, countDown_toNat s.ST, endGroup_tone_eq s.beginGroup.quiet, rfl⟩

/-- The change that puts the core before slot `k`. -/
def moveSlot (k : Fin Config.slotsPerTick) : OuterChange := { slot := fun _ => k }

theorem moveSlot_unseenBy (k : Fin Config.slotsPerTick) (i : Instr) : (moveSlot k).UnseenBy i :=
  ⟨fun _ => rfl, fun _ => ⟨rfl, rfl⟩⟩

theorem slotStep_moveSlot (k : Fin Config.slotsPerTick) (s : State) :
    slotStep ((moveSlot k).apply s) = onNext (moveSlot k).apply (slotStep s) := by
  cases hr : s.run with
  | paused x => rw [slotStep_of_paused s hr]; exact slotStep_of_paused ((moveSlot k).apply s) hr
  | running =>
    cases hd : decodeWord s.fetchWord with
    | ok i =>
      rw [slotStep_of_ok s hr hd, ← exec_outerChange _ _ (moveSlot_unseenBy k i)]
      exact slotStep_of_ok ((moveSlot k).apply s) hr hd
    | error e => rw [slotStep_of_error s hr hd]; exact slotStep_of_error ((moveSlot k).apply s) hr hd

/-- The slots of R75's loop do not see the slot number that the model keeps. -/
theorem runSlots_moveSlot (k : Fin Config.slotsPerTick) (n : Nat) (s : State) :
    runSlots n ((moveSlot k).apply s) = onNext (moveSlot k).apply (runSlots n s) := by
  induction n generalizing s with
  | zero => rfl
  | succ n ih =>
    have hquiet : slotStep ((moveSlot k).apply s).quiet = onNext (moveSlot k).apply (slotStep s.quiet) :=
      slotStep_moveSlot k s.quiet
    rw [runSlots, runSlots, hquiet]
    cases slotStep s.quiet with
    | next u => exact ih u
    | fault r => rfl
    | refused r => rfl

theorem slotStep_slot (h : slotStep s = .next t) : t.slot = s.slot := by
  obtain ⟨i, -, -, hexec⟩ | ⟨_, -, -, rfl⟩ | ⟨_, -, rfl⟩ := slotStep_cases s h
  · obtain ⟨-, -, -, -, hslot, -⟩ := exec_sameSurroundings hexec
    exact hslot
  · rfl
  · rfl

theorem runSlots_slot {n : Nat} (h : runSlots n s = .next t) : t.slot = s.slot := by
  induction n generalizing s with
  | zero => cases h; rfl
  | succ n ih =>
    rw [runSlots] at h
    cases hu : slotStep s.quiet with
    | next u =>
      rw [hu] at h
      calc t.slot = u.slot := ih h
        _ = s.quiet.slot := slotStep_slot hu
    | fault r => rw [hu] at h; cases h
    | refused r => rw [hu] at h; cases h

/-- The end of a tick-group as the step of its last slot does it: the machine is then at a boundary. -/
def backAtBoundary (s : State) : State := (moveSlot 0).apply s.endGroup

/-- A run of steps and the slots of R75's loop agree when the first step is the first slot and they agree after it. -/
theorem core_run_succ_eq_runSlots {v : State} {k : Nat} (hstep : step s = onNext State.closeSlot (slotStep v.quiet))
    (hrest : ∀ u, slotStep v.quiet = .next u → Sys2Proof.core.run k u.closeSlot = onNext backAtBoundary (runSlots k u)) :
    Sys2Proof.core.run (k + 1) s = onNext backAtBoundary (runSlots (k + 1) v) := by
  rw [core_run_succ, hstep, runSlots]
  cases hu : slotStep v.quiet with
  | next u => exact hrest u hu
  | fault r => rfl
  | refused r => rfl

/-- Closing a slot that is not the last moves to the next one and does nothing else, which the slots after it do not see. -/
theorem runSlots_closeSlot (k : Nat) {u : State} (h : u.slot.val ≠ 9) :
    onNext backAtBoundary (runSlots k u.closeSlot) = onNext backAtBoundary (runSlots k u) := by
  have hclose : u.closeSlot = (moveSlot (u.slot + 1)).apply u := closeSlot_of_ne_nine u h
  rw [hclose, runSlots_moveSlot, onNext_onNext]
  rfl

/-- After a slot of a tick-group, the steps left to its end are the slots left and the end of the group. -/
theorem core_run_closeSlot {k : Nat} {u : State} (hk : u.slot.val + k = 9) :
    Sys2Proof.core.run k u.closeSlot = onNext backAtBoundary (runSlots k u) := by
  induction k generalizing u with
  | zero => exact congrArg Host.Outcome.next (closeSlot_of_nine u hk)
  | succ k ih =>
    have hnext : u.closeSlot.slot.val = u.slot.val + 1 := closeSlot_slot_of_lt (by omega)
    have hne : u.closeSlot.slot ≠ 0 := fun e => by rw [e] at hnext; cases hnext
    rw [← runSlots_closeSlot (k + 1) (by omega)]
    refine core_run_succ_eq_runSlots (step_of_ne_zero u.closeSlot hne) fun w hw => ih ?_
    have hsame : w.slot = u.closeSlot.quiet.slot := slotStep_slot hw
    rw [hsame, State.quiet_slot, hnext]; omega

/-- At a boundary, going back to the boundary after the slots changes no slot number: they have not moved it. -/
theorem onNext_backAtBoundary {k : Nat} (h0 : s.slot = 0) :
    onNext backAtBoundary (runSlots k s) = onNext State.endGroup (runSlots k s) := by
  cases ht : runSlots k s with
  | next t =>
    have ht0 : t.slot = 0 := (runSlots_slot ht).trans h0
    have hback : backAtBoundary t = t.endGroup := by
      rw [backAtBoundary, moveSlot, OuterChange.apply, ← ht0]; rfl
    exact congrArg Host.Outcome.next hback
  | fault r => rfl
  | refused r => rfl

/-- Settles O41: the first step begins the group and runs its first slot; the nine after it are the other slots and the end of
the group. -/
theorem tenStepsAreOneTickGroup : Obligations.TenStepsAreOneTickGroup := by
  unfold Obligations.TenStepsAreOneTickGroup
  intro s h0 hp
  have hfirst : step s = onNext State.closeSlot (slotStep s.beginGroup.quiet) := by
    rw [step_of_slot s hp, openSlot_of_zero h0]
  have hsteps : Sys2Proof.core.run 10 s = onNext backAtBoundary (runSlots 10 s.beginGroup) := by
    refine core_run_succ_eq_runSlots hfirst fun u hu => core_run_closeSlot ?_
    have hu0 : u.slot = 0 := (slotStep_slot hu).trans h0
    rw [hu0]; rfl
  exact hsteps.trans (onNext_backAtBoundary (s := s.beginGroup) h0)

/-! The inputs an instruction depends on (R80). -/

/-- Settles O53: the change of the levels is unseen by every instruction that does not read them. -/
theorem onlyKeySkipsDependOnKeys : Obligations.OnlyKeySkipsDependOnKeys := by
  unfold Obligations.OnlyKeySkipsDependOnKeys
  intro i levels s hskp hsknp
  have hreads : readsKeys i = true → (fun _ => levels) = id := fun h => by
    rw [readsKeys_eq_false hskp hsknp] at h; cases h
  exact exec_outerChange { keys := fun _ => levels } s ⟨hreads, fun _ => ⟨rfl, rfl⟩⟩

/-- Settles O54: the change of the random input is unseen by every instruction that draws no sample. -/
theorem onlyRandomDependsOnTheRandomInput : Obligations.OnlyRandomDependsOnTheRandomInput := by
  unfold Obligations.OnlyRandomDependsOnTheRandomInput
  intro i samples drawn s hrnd
  have hdraws : drawsRandom i = true → (fun _ => samples) = id ∧ (fun _ => drawn) = id := fun h => by
    rw [drawsRandom_eq_false hrnd] at h; cases h
  exact exec_outerChange { samples := fun _ => samples, drawn := fun _ => drawn } s ⟨fun _ => rfl, hdraws⟩

end Sys2Proof.Machine
end

section
/-! PROOFS, shared layer. The number of a word given by its format (30_encoding.md R52), zero extension as a number, the address an instruction was fetched
from, and the conditional skip (41_control_flow.md R98). -/

namespace Sys2Proof.Safety

variable {i : Instr}

theorem decodesAs_of_encodeWord {n : Nat} (h : encodeWord i = BitVec.ofNat 16 n) : DecodesAs n i :=
  (congrArg decodeWord h).symm.trans (decodeWord_encodeWord i)

/-- Format NNN. -/
theorem decodesAs_nnn {top : BitVec 4} {nnn : Addr12} (h : encodeWord i = packNnn top nnn) :
    DecodesAs (0x1000 * top.toNat + nnn.toNat) i :=
  decodesAs_of_encodeWord (h.trans (packNnn_eq_ofNat top nnn))

/-- Format XKK. -/
theorem decodesAs_xkk {top : BitVec 4} {x : RegNo} {kk : Byte} (h : encodeWord i = packXkk top x kk) :
    DecodesAs (0x1000 * top.toNat + 0x100 * x.toNat + kk.toNat) i :=
  decodesAs_of_encodeWord (h.trans (packXkk_eq_ofNat top x kk))

/-- Format XY, whose last digit is the sub-opcode. -/
theorem decodesAs_xy {top sub : BitVec 4} {x y : RegNo} (h : encodeWord i = packXyn top x y sub) :
    DecodesAs (0x1000 * top.toNat + sub.toNat + 0x100 * x.toNat + 0x10 * y.toNat) i := by
  have hsum : 0x1000 * top.toNat + 0x100 * x.toNat + 0x10 * y.toNat + sub.toNat =
      0x1000 * top.toNat + sub.toNat + 0x100 * x.toNat + 0x10 * y.toNat := by omega
  exact decodesAs_of_encodeWord (h.trans (hsum ▸ packXyn_eq_ofNat top x y sub))

end Sys2Proof.Safety

namespace Sys2Proof.Machine

open Sys2Proof.Safety

variable {s : State} {a : Word} {i : Instr} {c : Bool} {p : Prop} [Decidable p]

@[simp] theorem zextAddr_toNat (nnn : Addr12) : (zextAddr nnn).toNat = nnn.toNat :=
  BitVec.toNat_setWidth_of_le (by decide)

@[simp] theorem zextByte_toNat (v : Byte) : (zextByte v).toNat = v.toNat :=
  BitVec.toNat_setWidth_of_le (by decide)

/-- The sum of a jump with offset stays below 65536 (41_control_flow.md R93). -/
theorem zextAddr_add_zextByte_toNat (nnn : Addr12) (v : Byte) :
    (zextAddr nnn + zextByte v).toNat = nnn.toNat + v.toNat := by
  rw [BitVec.toNat_add, zextAddr_toNat, zextByte_toNat]; omega

theorem State.addr0_of_pc (h : s.pc = a + 2) : s.addr0 = a := by
  rw [State.addr0, h, BitVec.add_sub_cancel]

theorem State.skipIf_pc_of_iff (hpc : s.pc = a + 2) (hc : c = true ↔ p) :
    (s.skipIf c).pc = if p then a + 4 else a + 2 := by
  have hfour : a + 2 + 2 = a + 4 := BitVec.add_assoc a 2 2
  simp only [State.skipIf_pc, hpc, hfour, hc]

/-- An instruction that skips when `p` holds. -/
theorem completes_skip_if (hexec : exec i s = .next (s.skipIf c)) (hpc : s.pc = a + 2) (hc : c = true ↔ p) :
    Completes (exec i s) fun t => t.pc = (if p then a + 4 else a + 2) ∧ Frame { pc := true } s t :=
  ⟨s.skipIf c, hexec, State.skipIf_pc_of_iff hpc hc, frame_skipIf rfl c⟩

/-- An instruction that skips unless `p` holds. -/
theorem completes_skip_unless (hexec : exec i s = .next (s.skipIf c)) (hpc : s.pc = a + 2) (hc : c = true ↔ ¬ p) :
    Completes (exec i s) fun t => t.pc = (if p then a + 2 else a + 4) ∧ Frame { pc := true } s t := by
  rw [← ite_not]
  exact completes_skip_if hexec hpc hc

end Sys2Proof.Machine
end

section
/-! PROOFS, 41_control_flow.md. Jumps, call and return, and the skips on a comparison. -/

namespace Sys2Proof.Machine

open Sys2Proof.Safety

/-- Settles O6: the target is the operand as a number, and a jump writes `pc` alone. -/
theorem jumpGoesToItsTarget : Obligations.JumpGoesToItsTarget := by
  unfold Obligations.JumpGoesToItsTarget
  intro nnn s
  exact ⟨decodesAs_nnn (top := 1) rfl, s.jumpTo (zextAddr nnn), rfl, zextAddr_toNat nnn, frame_jumpTo rfl _⟩

/-- Settles O7, by the two cases of a call: room on the stack, and a full stack. -/
theorem callPushesTheNextAddress : Obligations.CallPushesTheNextAddress := by
  unfold Obligations.CallPushesTheNextAddress
  intro nnn addr0 s hpc
  refine ⟨decodesAs_nnn (top := 2) rfl, fun room => ?_, fun full => ?_⟩
  · have hexec : exec (.call nnn) s = _ := execCall_of_room s nnn room
    exact ⟨_, hexec, congrArg (· :: s.stack) hpc, zextAddr_toNat nnn, exec_frame hexec⟩
  · rw [← State.addr0_of_pc hpc]
    exact execCall_of_full s nnn full.ge

/-- Settles O8, by the two cases of a return: an entry on the stack, and an empty stack. -/
theorem returnPopsTheNewestAddress : Obligations.ReturnPopsTheNewestAddress := by
  unfold Obligations.ReturnPopsTheNewestAddress
  intro addr0 s hpc
  refine ⟨decodesAs_of_encodeWord rfl, fun target rest entry => ?_, fun empty => ?_⟩
  · have hexec : exec .ret s = _ := execRet_of_cons s entry
    exact ⟨_, hexec, rfl, rfl, exec_frame hexec⟩
  · rw [← State.addr0_of_pc hpc]
    exact execRet_of_nil s empty

/-- Settles O9: the return pops what the call pushed, the `pc` before the call. -/
theorem returnUndoesCall : Obligations.ReturnUndoesCall := by
  unfold Obligations.ReturnUndoesCall
  intro nnn s room
  have hpushed : ({ s with stack := s.pc :: s.stack }.jumpTo (zextAddr nnn)).stack = s.pc :: s.stack := rfl
  exact ⟨_, execCall_of_room s nnn room, execRet_of_cons _ hpushed⟩

/-- Settles O10: the sum of the two numbers needs no reduction, and a jump writes `pc` alone. -/
theorem jumpWithOffsetAddsRegisterZero : Obligations.JumpWithOffsetAddsRegisterZero := by
  unfold Obligations.JumpWithOffsetAddsRegisterZero
  intro nnn s
  exact ⟨decodesAs_nnn (top := 0xB) rfl, s.jumpTo (zextAddr nnn + zextByte (s.getV 0)), rfl,
    zextAddr_add_zextByte_toNat nnn _, frame_jumpTo rfl _⟩

/-- Settles O11: one skips if the register equals the immediate, the other unless it does. -/
theorem skipOnImmediateComparison : Obligations.SkipOnImmediateComparison := by
  unfold Obligations.SkipOnImmediateComparison
  intro x kk addr0 s hpc
  exact ⟨decodesAs_xkk (top := 3) rfl, decodesAs_xkk (top := 4) rfl,
    completes_skip_if rfl hpc beq_iff_eq, completes_skip_unless rfl hpc bne_iff_ne⟩

/-- Settles O12: one skips if the two registers are equal, the other unless they are. -/
theorem skipOnRegisterComparison : Obligations.SkipOnRegisterComparison := by
  unfold Obligations.SkipOnRegisterComparison
  intro x y addr0 s hpc
  exact ⟨decodesAs_xy (top := 5) (sub := 0) rfl, decodesAs_xy (top := 9) (sub := 0) rfl,
    completes_skip_if rfl hpc beq_iff_eq, completes_skip_unless rfl hpc bne_iff_ne⟩

end Sys2Proof.Machine
end

section
/-! PROOFS, shared layer. An instruction whose only update is a register write, or the flag write and then a register write (42_alu.md R123). -/

namespace Sys2Proof.Safety

open Sys2Proof.Machine

variable {i : Instr}

theorem Completes.imp {o : Host.Outcome State Fault Refusal} {P Q : State → Prop}
    (h : Completes o P) (himp : ∀ t, P t → Q t) : Completes o Q := by
  obtain ⟨t, hnext, hP⟩ := h
  exact ⟨t, hnext, himp t hP⟩

/-- Format X, whose last two digits are the sub-opcode. -/
theorem decodesAs_x {top : BitVec 4} {sub : Byte} {x : RegNo} (h : encodeWord i = packXkk top x sub) :
    DecodesAs (0x1000 * top.toNat + sub.toNat + 0x100 * x.toNat) i := by
  rw [Nat.add_right_comm]
  exact decodesAs_xkk h

end Sys2Proof.Safety

namespace Sys2Proof.Machine

open Sys2Proof.Safety

variable {s : State} {i : Instr} {x : RegNo} {v f : Byte}

/-- An instruction that writes `v` to `V[x]`. -/
theorem completes_setV (hexec : exec i s = .next (s.setV x v)) :
    Completes (exec i s) fun t => t.getV x = v ∧ Frame { regs := [x] } s t :=
  ⟨s.setV x v, hexec, State.getV_setV_same s x v, frame_setV List.mem_cons_self v⟩

/-- An instruction that writes `f` to the flag and then `v` to `V[x]`, which overwrites the flag if `x = 0xF`. -/
theorem completes_setFlag_setV (hexec : exec i s = .next ((s.setFlag f).setV x v)) :
    Completes (exec i s) fun t => t.getV x = v ∧ (x ≠ regF → t.getV regF = f) ∧ Frame { regs := [x, regF] } s t := by
  refine ⟨_, hexec, State.getV_setV_same _ x v, fun hx => ?_, ?_⟩
  · rw [State.getV_setV_ne _ (Ne.symm hx), State.setFlag, State.getV_setV_same]
  · exact (frame_setFlag (List.mem_cons_of_mem x List.mem_cons_self) f).trans (frame_setV List.mem_cons_self v)

theorem State.getV_setFlag_flag (s : State) (f : Byte) : (s.setFlag f).getV regF = f := State.getV_setV_same s regF f

theorem State.getV_setFlag_ne (s : State) (h : x ≠ regF) (f : Byte) : (s.setFlag f).getV x = s.getV x :=
  State.getV_setV_ne s h f

end Sys2Proof.Machine
end

section
/-! PROOFS, 42_alu.md. Results and flags as numbers, and the instructions of register load, arithmetic, logic, shift and random. -/

namespace Sys2Proof.Machine

open Sys2Proof.Safety

variable (a b : Byte) (s : State)

/-! The flags (R116 to R120). -/

theorem carryFlag_toNat : (carryFlag a b).toNat = if 255 < a.toNat + b.toNat then 1 else 0 := by
  simp only [carryFlag, flagBit_toNat, decide_eq_true_eq]

theorem greaterFlag_toNat : (greaterFlag a b).toNat = if b.toNat < a.toNat then 1 else 0 := by
  simp only [greaterFlag, flagBit_toNat, decide_eq_true_eq]

theorem lowBitFlag_toNat : (lowBitFlag a).toNat = a.toNat % 2 := by
  rw [lowBitFlag, BitVec.toNat_and]; exact Nat.and_one_is_mod _

/-- Bit 7 of a byte is set from 128 on. -/
theorem highBitFlag_toNat : (highBitFlag a).toNat = a.toNat / 128 := by
  have hbit : (a &&& 0x80 != 0) = decide (128 ≤ a.toNat) := by
    have hmask : a &&& 0x80 = if a.msb then 0x80 else 0 := BitVec.and_twoPow a 7
    rw [hmask, BitVec.msb_eq_decide]
    by_cases h : 128 ≤ a.toNat <;> simp [h]
  simp only [highBitFlag, hbit, flagBit_toNat, decide_eq_true_eq]
  split <;> omega

/-! The results. -/

/-- The 9-bit sum cut to a byte is the sum modulo 256 (R116). -/
theorem sum_setWidth_toNat : ((a.setWidth 9 + b.setWidth 9).setWidth 8).toNat = (a.toNat + b.toNat) % 256 := by
  simp only [BitVec.toNat_setWidth, BitVec.toNat_add]; omega

theorem byte_sub_toNat : (a - b).toNat = (a.toNat + 256 - b.toNat) % 256 := by
  rw [BitVec.toNat_sub]; omega

theorem byte_shiftRight_one_toNat : (a >>> 1).toNat = a.toNat / 2 := by
  rw [BitVec.toNat_ushiftRight, Nat.shiftRight_one]

theorem byte_shiftLeft_one_toNat : (a <<< 1).toNat = a.toNat * 2 % 256 := by
  rw [BitVec.toNat_shiftLeft, Nat.shiftLeft_eq]

theorem State.rndNext_nil (h : s.rndInput = []) : s.rndNext = Config.rndSample s.rndDrawn := by
  rw [State.rndNext, h]

theorem State.rndTake_cons {r : Byte} {rest : List Byte} (h : s.rndInput = r :: rest) :
    s.rndTake = { s with rndInput := rest } := by
  rw [State.rndTake, h]

theorem State.rndTake_nil (h : s.rndInput = []) : s.rndTake = { s with rndDrawn := s.rndDrawn + 1 } := by
  rw [State.rndTake, h]

/-- An instruction that writes the flag `f` and then combines `V[x]` with `V[y]` by `op`, in the four cases of `x` and `y` being 0xF: an operand that is
the flag register reads as `f`. `op` is a difference, in either order: `num` on numbers, and 0 on equal operands (R117, R119). -/
theorem completes_flag_then_difference {i : Instr} {s : State} {x y : RegNo} {f : Byte} {op : Byte → Byte → Byte}
    {num : Nat → Nat → Nat} (hop : ∀ u v, (op u v).toNat = num u.toNat v.toNat) (hself : ∀ u, op u u = 0)
    (hexec : exec i s = .next ((s.setFlag f).setV x (op ((s.setFlag f).getV x) ((s.setFlag f).getV y)))) :
    Completes (exec i s) fun t =>
      (x ≠ regF → y ≠ regF →
        (t.getV x).toNat = num (s.getV x).toNat (s.getV y).toNat ∧ (t.getV regF).toNat = f.toNat) ∧
      (x = regF → y ≠ regF → (t.getV regF).toNat = num f.toNat (s.getV y).toNat) ∧
      (x ≠ regF → y = regF → (t.getV x).toNat = num (s.getV x).toNat f.toNat ∧ (t.getV regF).toNat = f.toNat) ∧
      (x = regF → y = regF → (t.getV regF).toNat = 0) ∧
      Frame { regs := [x, regF] } s t := by
  refine (completes_setFlag_setV hexec).imp fun t ⟨hx, hflag, hframe⟩ => ⟨?_, ?_, ?_, ?_, hframe⟩
  · intro hxF hyF
    rw [hx, hflag hxF, hop, State.getV_setFlag_ne s hxF, State.getV_setFlag_ne s hyF]
    exact ⟨rfl, rfl⟩
  · rintro rfl hyF
    rw [hx, hop, State.getV_setFlag_flag, State.getV_setFlag_ne s hyF]
  · rintro hxF rfl
    rw [hx, hflag hxF, hop, State.getV_setFlag_ne s hxF, State.getV_setFlag_flag]
    exact ⟨rfl, rfl⟩
  · rintro rfl rfl
    rw [hx, hself]; rfl

/-! The statements. -/

/-- Settles O14: each of the three writes its source to `V[x]` alone. -/
theorem loadsCopyTheirSource : Obligations.LoadsCopyTheirSource := by
  unfold Obligations.LoadsCopyTheirSource
  intro x y kk s
  exact ⟨decodesAs_xkk (top := 6) rfl, decodesAs_xy (top := 8) (sub := 0) rfl, decodesAs_x (top := 0xF) (sub := 7) rfl,
    completes_setV rfl, completes_setV rfl, completes_setV rfl⟩

/-- Settles O15: a byte addition is the sum modulo 256, and only `V[x]` is written. -/
theorem addImmediateWrapsWithoutFlag : Obligations.AddImmediateWrapsWithoutFlag := by
  unfold Obligations.AddImmediateWrapsWithoutFlag
  intro x kk s
  have hsum : (s.getV x + kk).toNat = ((s.getV x).toNat + kk.toNat) % 256 := BitVec.toNat_add ..
  exact ⟨decodesAs_xkk (top := 7) rfl, (completes_setV rfl).imp fun t ⟨hx, hframe⟩ => ⟨by rw [hx, hsum], hframe⟩⟩

/-- Settles O16: each bit of a logical result is that of the operands' bits, and only `V[x]` is written. -/
theorem logicWorksBitByBit : Obligations.LogicWorksBitByBit := by
  unfold Obligations.LogicWorksBitByBit
  intro x y s
  refine ⟨decodesAs_xy (top := 8) (sub := 1) rfl, decodesAs_xy (top := 8) (sub := 2) rfl,
    decodesAs_xy (top := 8) (sub := 3) rfl, ?_, ?_, ?_⟩
  · exact (completes_setV rfl).imp fun t ⟨hx, hframe⟩ => ⟨fun j => by rw [hx, BitVec.getLsbD_or], hframe⟩
  · exact (completes_setV rfl).imp fun t ⟨hx, hframe⟩ => ⟨fun j => by rw [hx, BitVec.getLsbD_and], hframe⟩
  · exact (completes_setV rfl).imp fun t ⟨hx, hframe⟩ => ⟨fun j => by rw [hx, BitVec.getLsbD_xor], hframe⟩

/-- Settles O17: the sum is of the old operands, and the carry stays in the flag register unless the sum overwrites it. -/
theorem addRegistersSetsCarry : Obligations.AddRegistersSetsCarry := by
  unfold Obligations.AddRegistersSetsCarry
  intro x y s
  refine ⟨decodesAs_xy (top := 8) (sub := 4) rfl, (completes_setFlag_setV rfl).imp fun t ⟨hx, hflag, hframe⟩ => ?_⟩
  exact ⟨by rw [hx, sum_setWidth_toNat], fun hne => by rw [hflag hne, carryFlag_toNat], hframe⟩

/-- Settles O18: the difference reads its operands after the flag write. -/
theorem subtractSetsGreaterFlag : Obligations.SubtractSetsGreaterFlag := by
  unfold Obligations.SubtractSetsGreaterFlag
  rintro x y _ _ _ s rfl rfl rfl
  rw [← greaterFlag_toNat]
  exact ⟨decodesAs_xy (top := 8) (sub := 5) rfl,
    completes_flag_then_difference (op := fun u v => u - v) (num := fun m n => (m + 256 - n) % 256)
      byte_sub_toNat BitVec.sub_self rfl⟩

/-- Settles O19: as 8xy5, with the operands of the comparison and of the difference exchanged. -/
theorem reverseSubtractSetsGreaterFlag : Obligations.ReverseSubtractSetsGreaterFlag := by
  unfold Obligations.ReverseSubtractSetsGreaterFlag
  rintro x y _ _ _ s rfl rfl rfl
  rw [← greaterFlag_toNat]
  exact ⟨decodesAs_xy (top := 8) (sub := 7) rfl,
    completes_flag_then_difference (op := fun u v => v - u) (num := fun m n => (n + 256 - m) % 256)
      (fun u v => byte_sub_toNat v u) BitVec.sub_self rfl⟩

/-- Settles O20: the shift reads `V[x]` after the flag write, so with `x = 0xF` it shifts the flag, which is 0 or 1. -/
theorem shiftsMoveOneBitIntoTheFlag : Obligations.ShiftsMoveOneBitIntoTheFlag := by
  unfold Obligations.ShiftsMoveOneBitIntoTheFlag
  rintro x y _ s rfl
  refine ⟨decodesAs_xy (top := 8) (sub := 6) rfl, decodesAs_xy (top := 8) (sub := 0xE) rfl, ?_, ?_⟩
  · refine (completes_setFlag_setV rfl).imp fun t ⟨hx, hflag, hframe⟩ => ⟨fun hne => ⟨?_, ?_⟩, ?_, hframe⟩
    · rw [hx, byte_shiftRight_one_toNat, State.getV_setFlag_ne s hne]
    · rw [hflag hne, lowBitFlag_toNat]
    · rintro rfl
      rw [hx, byte_shiftRight_one_toNat, State.getV_setFlag_flag, lowBitFlag_toNat]; omega
  · refine (completes_setFlag_setV rfl).imp fun t ⟨hx, hflag, hframe⟩ => ⟨fun hne => ⟨?_, ?_⟩, ?_, hframe⟩
    · rw [hx, byte_shiftLeft_one_toNat, State.getV_setFlag_ne s hne]
    · rw [hflag hne, highBitFlag_toNat]
    · rintro rfl
      rw [hx, byte_shiftLeft_one_toNat, State.getV_setFlag_flag, highBitFlag_toNat]; omega

/-- Settles O21, by the two forms of the random input: a sample written down, or the free value at the counter. -/
theorem randomByteIsMasked : Obligations.RandomByteIsMasked := by
  unfold Obligations.RandomByteIsMasked
  intro x kk s
  have hexec : exec (.rnd x kk) s = .next (s.rndTake.setV x (s.rndNext &&& kk)) := rfl
  have hx : (s.rndTake.setV x (s.rndNext &&& kk)).getV x = s.rndNext &&& kk := State.getV_setV_same ..
  refine ⟨decodesAs_xkk (top := 0xC) rfl, _, hexec, fun r rest given => ?_, fun free => ?_, fun j hj => ?_, exec_frame hexec⟩
  · rw [hx, s.rndNext_cons given, s.rndTake_cons given]
    exact ⟨rfl, rfl, rfl⟩
  · rw [hx, s.rndNext_nil free, s.rndTake_nil free]
    exact ⟨rfl, free, rfl⟩
  · rw [hx, BitVec.getLsbD_and, hj, Bool.and_false]

end Sys2Proof.Machine
end

section
/-! PROOFS, 43_index_memory.md. The index as a number, the decimal digits as numbers, and what the block transfers store and load. -/

namespace Sys2Proof.Machine

open Sys2Proof.Safety

variable (s : State) (v : Byte)

/-! The index register (R130 to R132). -/

/-- The product stays below 65536, so the whole byte is multiplied (R132). -/
theorem glyphAddr_toNat : (glyphAddr v).toNat = v.toNat * 5 := by
  simp only [glyphAddr, Config.fontBase, Config.glyphBytes, BitVec.toNat_add, BitVec.toNat_mul, BitVec.toNat_ofNat,
    zextByte_toNat]
  omega

/-- An instruction that writes an address with the number `n` to `I`. -/
theorem completes_setI {s : State} {i : Instr} {a : Word} {n : Nat} (hexec : exec i s = .next (s.setI a)) (ha : a.toNat = n) :
    Completes (exec i s) fun t => t.I.toNat = n ∧ Frame { index := true } s t :=
  ⟨s.setI a, hexec, ha, frame_setI rfl a⟩

/-! The decimal digits (R133). -/

theorem hundredsDigit_toNat : (hundredsDigit v).toNat = v.toNat / 100 := by
  rw [hundredsDigit, BitVec.toNat_ofNat]; omega

theorem tensDigit_toNat : (tensDigit v).toNat = v.toNat / 10 % 10 := by
  rw [tensDigit, BitVec.toNat_ofNat]; omega

theorem onesDigit_toNat : (onesDigit v).toNat = v.toNat % 10 := by
  rw [onesDigit, BitVec.toNat_ofNat]; omega

theorem State.effAddr_zero : s.effAddr 0 = s.I := BitVec.add_zero s.I

/-- The three cells of Fx33 are different ones, so no store overwrites an earlier one. -/
theorem storeDigits_readByte_effAddr :
    (storeDigits v s).readByte (s.effAddr 0) = hundredsDigit v ∧
    (storeDigits v s).readByte (s.effAddr 1) = tensDigit v ∧
    (storeDigits v s).readByte (s.effAddr 2) = onesDigit v := by
  have hne : ∀ {a b : Nat}, a < b → b < 3 → cellOf (s.effAddr a) ≠ cellOf (s.effAddr b) := fun hab hb e =>
    Nat.ne_of_lt hab (cellOf_effAddr_inj s (by omega) (by omega) e)
  refine ⟨?_, ?_, ?_⟩
  · rw [storeDigits_readByte, if_neg (hne (by decide) (by decide)), if_neg (hne (by decide) (by decide)), if_pos rfl]
  · rw [storeDigits_readByte, if_neg (hne (by decide) (by decide)), if_pos rfl]
  · rw [storeDigits_readByte, if_pos rfl]

/-! The statements. -/

/-- Settles O22: both write `I` alone, with the operand as a number and the number of the glyph's address. -/
theorem indexIsLoaded : Obligations.IndexIsLoaded := by
  unfold Obligations.IndexIsLoaded
  intro nnn x s
  exact ⟨decodesAs_nnn (top := 0xA) rfl, decodesAs_x (top := 0xF) (sub := 0x29) rfl,
    completes_setI rfl (zextAddr_toNat nnn), completes_setI rfl (glyphAddr_toNat _)⟩

/-- Settles O23: the sum of two 16-bit words wraps, and only `I` is written. -/
theorem addToIndexWraps : Obligations.AddToIndexWraps := by
  unfold Obligations.AddToIndexWraps
  intro x s
  have hsum : (s.I + zextByte (s.getV x)).toNat = (s.I.toNat + (s.getV x).toNat) % 65536 := by
    rw [BitVec.toNat_add, zextByte_toNat]
  exact ⟨decodesAs_x (top := 0xF) (sub := 0x1E) rfl, completes_setI rfl hsum⟩

/-- Settles O24: each digit stands in its own cell after the three stores, and its value is the quotient the spec names. -/
theorem decimalDigitsAreStored : Obligations.DecimalDigitsAreStored := by
  unfold Obligations.DecimalDigitsAreStored
  intro x s
  have hexec : exec (.ldBVx x) s = .next (storeDigits (s.getV x) s) := rfl
  obtain ⟨hhundreds, htens, hones⟩ := storeDigits_readByte_effAddr s (s.getV x)
  rw [State.effAddr_zero] at hhundreds
  exact ⟨decodesAs_x (top := 0xF) (sub := 0x33) rfl, _, hexec,
    (congrArg BitVec.toNat hhundreds).trans (hundredsDigit_toNat _), (congrArg BitVec.toNat htens).trans (tensDigit_toNat _),
    (congrArg BitVec.toNat hones).trans (onesDigit_toNat _), exec_frame hexec⟩

/-- Settles O25, by what the loop of stores leaves in memory: at most 16 cells, all different. -/
theorem registersAreStoredInOrder : Obligations.RegistersAreStoredInOrder := by
  unfold Obligations.RegistersAreStoredInOrder
  intro x s
  have hexec : exec (.ldMemVx x) s = .next (storeRegs (x.toNat + 1) s) := rfl
  obtain ⟨hstored, -⟩ := storeRegs_readByte s (show x.toNat + 1 ≤ 4096 by omega)
  exact ⟨decodesAs_x (top := 0xF) (sub := 0x55) rfl, _, hexec, fun r hr => hstored r (by omega), exec_frame hexec⟩

/-- Settles O26, by what the loop of loads leaves in each register: at or below `x` the byte, above `x` the old value. -/
theorem registersAreLoadedInOrder : Obligations.RegistersAreLoadedInOrder := by
  unfold Obligations.RegistersAreLoadedInOrder
  intro x s
  have hexec : exec (.ldVxMem x) s = .next (loadRegs (x.toNat + 1) s) := rfl
  have hloaded := loadRegs_getV s (show x.toNat + 1 ≤ 16 by omega)
  refine ⟨decodesAs_x (top := 0xF) (sub := 0x65) rfl, _, hexec, fun r hr => ?_, fun q hq => ?_, exec_frame hexec⟩
  · have hnum : (regOf r).toNat = r := regOf_toNat (by omega)
    exact (hloaded (regOf r)).trans (by rw [hnum, if_pos (by omega)]; rfl)
  · rw [hloaded, if_neg (by omega)]

/-- Settles O27: the load reads the addresses the store wrote, for the store leaves `I` and `u` has the same one. -/
theorem storedRegistersLoadBack : Obligations.StoredRegistersLoadBack := by
  unfold Obligations.StoredRegistersLoadBack
  intro x s t u hexec hI hmem
  refine ⟨loadRegs (x.toNat + 1) u, rfl, fun q hq => ?_⟩
  cases hexec
  obtain ⟨hstored, -⟩ := storeRegs_readByte s (show x.toNat + 1 ≤ 4096 by omega)
  have haddr : u.effAddr q.toNat = s.effAddr q.toNat := by
    rw [← storeRegs_effAddr s (x.toNat + 1), State.effAddr, hI, State.effAddr]
  calc (loadRegs (x.toNat + 1) u).getV q
      = u.readByte (u.effAddr q.toNat) := by rw [loadRegs_getV u (by omega), if_pos (by omega)]
    _ = (storeRegs (x.toNat + 1) s).readByte (s.effAddr q.toNat) := by rw [hmem, haddr]
    _ = s.getV q := by rw [hstored q.toNat (by omega), regOf_toNat_self]

end Sys2Proof.Machine
end

section
/-! PROOFS, 44_display.md. The clear, the toggle, and Dxyn as one draw of the cells its sprite covers. -/

namespace Sys2Proof.Safety

/-- Format XYN. -/
theorem decodesAs_xyn {i : Instr} {top : BitVec 4} {x y : RegNo} {n : Nibble} (h : encodeWord i = packXyn top x y n) :
    DecodesAs (0x1000 * top.toNat + 0x100 * x.toNat + 0x10 * y.toNat + n.toNat) i :=
  decodesAs_of_encodeWord (h.trans (packXyn_eq_ofNat top x y n))

end Sys2Proof.Safety

namespace Sys2Proof.Machine

open Sys2Proof.Safety

variable {s t u : State} {P : Nat → Nat → Prop}

/-! The toggle (R150). -/

theorem fbRead_flipPixel (s : State) (x y : Nat) (px : Fin 128) (py : Fin 64) :
    (s.flipPixel x y).fbRead px py =
      if px.val = x % 128 ∧ py.val = y % 64 then !s.fbRead px py else s.fbRead px py := by
  have h := pixel_flipPixel s x y px.val py.val
  rwa [Nat.mod_eq_of_lt px.isLt, Nat.mod_eq_of_lt py.isLt] at h

theorem flipPixel_flipPixel (s : State) (x y : Nat) : (s.flipPixel x y).flipPixel x y = s := by
  have hFB : ((s.flipPixel x y).flipPixel x y).FB = s.FB := FB_ext_fbRead fun px py => by
    rw [fbRead_flipPixel, fbRead_flipPixel]
    split
    · exact Bool.not_not _
    · rfl
  calc (s.flipPixel x y).flipPixel x y
      = { s with FB := ((s.flipPixel x y).flipPixel x y).FB } := rfl
    _ = s := by rw [hFB]

/-! A draw through the host's read port, from a cleared flag (R153). -/

theorem Drawn.fbRead_of_drawn (d : Drawn P (s.setFlag 0) t) (px : Fin 128) (py : Fin 64) (h : P px.val py.val) :
    t.fbRead px py = !s.fbRead px py := d.flips _ _ px.isLt py.isLt h

theorem Drawn.fbRead_of_not_drawn (d : Drawn P (s.setFlag 0) t) (px : Fin 128) (py : Fin 64) (h : ¬ P px.val py.val) :
    t.fbRead px py = s.fbRead px py := d.keeps _ _ px.isLt py.isLt h

theorem Drawn.flag_eq_zero (d : Drawn P (s.setFlag 0) t)
    (on : ∀ (px : Fin 128) (py : Fin 64), P px.val py.val → s.fbRead px py = true) : t.getV regF = 0 :=
  (d.stays fun px py hx hy h => on ⟨px, hx⟩ ⟨py, hy⟩ h).trans (State.getV_setFlag_flag s 0)

theorem Drawn.flag_eq_one_iff (d : Drawn P (s.setFlag 0) t) :
    t.getV regF = 1 ↔ ∃ (px : Fin 128) (py : Fin 64), P px.val py.val ∧ s.fbRead px py = false := by
  constructor
  · intro hone
    by_contra noneOff
    have hzero : t.getV regF = 0 := d.flag_eq_zero fun px py h => by
      by_contra off
      exact noneOff ⟨px, py, h, Bool.eq_false_of_not_eq_true off⟩
    rw [hzero] at hone
    exact absurd hone (by decide)
  · rintro ⟨px, py, h, off⟩
    exact d.sets _ _ px.isLt py.isLt h off

theorem Drawn.frame_of_cleared (d : Drawn P (s.setFlag 0) t) : Frame { regs := [regF], frameBuffer := true } s t :=
  (frame_setFlag List.mem_cons_self 0).trans (frame_drawn d List.mem_cons_self rfl)

/-- Drawing the same cells again flips each of them back (R153 (i)). -/
theorem Drawn.fbRead_of_redrawn (d : Drawn P (s.setFlag 0) t) (e : Drawn P (t.setFlag 0) u) (px : Fin 128) (py : Fin 64) :
    u.fbRead px py = s.fbRead px py := by
  by_cases h : P px.val py.val
  · rw [e.fbRead_of_drawn px py h, d.fbRead_of_drawn px py h, Bool.not_not]
  · rw [e.fbRead_of_not_drawn px py h, d.fbRead_of_not_drawn px py h]

/-! Dxyn (R153). -/

/-- The origin is read after the flag is cleared (R153 (e)). -/
theorem getV_setFlag_zero_toNat (s : State) (x : RegNo) : ((s.setFlag 0).getV x).toNat = origin s x := by
  rw [State.getV_setFlag, origin, apply_ite BitVec.toNat]; rfl

/-- Dxyn clears the flag and then draws the cells its sprite covers. -/
theorem completes_drw (x y : RegNo) (n : Nibble) (s : State) :
    Completes (exec (.drw x y n) s) (Drawn (covers s (origin s x) (origin s y) n.toNat) (s.setFlag 0)) := by
  have d := drawn_drawSprite (s.setFlag 0) (origin s x) (origin s y) (show n.toNat ≤ 64 by omega)
  refine ⟨drawSprite (origin s x) (origin s y) n.toNat (s.setFlag 0), ?_, d.congr fun px py _ _ => ?_⟩
  · rw [← getV_setFlag_zero_toNat, ← getV_setFlag_zero_toNat]; rfl
  · simp only [covers, State.setFlag_readByte, State.setFlag_effAddr, eq_comm (a := px), eq_comm (a := py)]
    constructor
    · rintro ⟨r, c, hr, hc, hbit, hx, hy⟩
      exact ⟨r, c, hr, hc, hx, hy, hbit⟩
    · rintro ⟨r, c, hr, hc, hx, hy, hbit⟩
      exact ⟨r, c, hr, hc, hbit, hx, hy⟩

/-- A draw leaves `I`, memory and the registers below 0xF, so the next Dxyn draws the same cells. -/
theorem Drawn.covers_origin (d : Drawn P (s.setFlag 0) t) (x y : RegNo) (n : Nat) :
    covers t (origin t x) (origin t y) n = covers s (origin s x) (origin s y) n := by
  have horigin : ∀ r, origin t r = origin s r := fun r => by
    unfold origin
    split
    · rfl
    · next hr => rw [d.regs r hr, State.getV_setFlag_ne s hr]
  funext px py
  simp only [covers, horigin, d.effAddr, d.readByte, State.setFlag_effAddr, State.setFlag_readByte]

/-! The statements. -/

/-- Settles O30: every cell of a cleared frame buffer is off, and the clear writes the frame buffer alone. -/
theorem clearTurnsEveryCellOff : Obligations.ClearTurnsEveryCellOff := by
  unfold Obligations.ClearTurnsEveryCellOff
  intro s
  exact ⟨decodesAs_of_encodeWord rfl, s.clear, rfl, fun px py => pixel_clear s px.val py.val, frame_clear rfl⟩

/-- Settles O31: the toggle flips one cell, whose old value it reports, and a second flip of that cell undoes the first. -/
theorem toggleFlipsOneWrappedCell : Obligations.ToggleFlipsOneWrappedCell := by
  unfold Obligations.ToggleFlipsOneWrappedCell
  intro x y s
  exact ⟨congrArg (!·) (pixel_mod s x y).symm, fbRead_flipPixel s x y, flipPixel_flipPixel s x y⟩

/-- Settles O32: Dxyn is one draw of the covered cells from a cleared flag. -/
theorem drawFlipsTheCoveredCells : Obligations.DrawFlipsTheCoveredCells := by
  unfold Obligations.DrawFlipsTheCoveredCells
  intro x y n s
  exact ⟨decodesAs_xyn (top := 0xD) rfl, (completes_drw x y n s).imp fun t d =>
    ⟨d.fbRead_of_drawn, d.fbRead_of_not_drawn, d.flag_eq_one_iff.mpr, d.flag_eq_zero, d.frame_of_cleared⟩⟩

/-- Settles O33: the second Dxyn draws the cells of the first, and finds off those that were on. -/
theorem drawTwiceRestoresTheFrameBuffer : Obligations.DrawTwiceRestoresTheFrameBuffer := by
  unfold Obligations.DrawTwiceRestoresTheFrameBuffer
  intro x y n s
  refine (completes_drw x y n s).imp fun t d => (completes_drw x y n t).imp fun u e => ?_
  rw [d.covers_origin] at e
  refine ⟨d.fbRead_of_redrawn e, e.flag_eq_one_iff.trans ?_⟩
  refine exists_congr fun px => exists_congr fun py => and_congr_right fun h => ?_
  rw [d.fbRead_of_drawn px py h, Bool.not_eq_false']

end Sys2Proof.Machine
end

section
/-! PROOFS, 45_timers_keys.md. Repeated timer ticks, the key an operand selects, and the timer and key instructions. -/

namespace Sys2Proof.Machine

open Sys2Proof.Safety

variable (s : State) (v : Byte)

/-! The timers (R170). -/

theorem countDown_iterate_toNat (k : Nat) : (countDown^[k] v).toNat = v.toNat - k := by
  induction k with
  | zero => rfl
  | succ k ih => rw [Function.iterate_succ_apply', countDown_toNat, ih, Nat.sub_sub]

/-- Ticks act on the two counters separately, and on nothing else. -/
theorem timerTick_iterate (k : Nat) :
    State.timerTick^[k] s = { s with DT := countDown^[k] s.DT, ST := countDown^[k] s.ST } := by
  induction k with
  | zero => rfl
  | succ k ih =>
    simp only [Function.iterate_succ_apply', ih]
    rfl

/-! The keys (R177). -/

theorem keyNumber_toNat : (keyNumber v).toNat = v.toNat % 16 :=
  (BitVec.toNat_ofNat _ 4).trans (Nat.mod_mod _ 16)

theorem keyHeld_keyNumber : s.keyHeld (keyNumber v) = s.keys.getLsbD (v.toNat % 16) := by
  rw [State.keyHeld, keyNumber_toNat]

/-! The statements. -/

/-- Settles O35: each counter is ticked `k` times on its own. -/
theorem timersCountDownToZero : Obligations.TimersCountDownToZero := by
  unfold Obligations.TimersCountDownToZero
  intro k s
  rw [timerTick_iterate]
  exact ⟨countDown_iterate_toNat s.DT k, countDown_iterate_toNat s.ST k, rfl⟩

/-- Settles O13: one skips if the selected key is held, the other unless it is. -/
theorem skipOnKeyLevel : Obligations.SkipOnKeyLevel := by
  unfold Obligations.SkipOnKeyLevel
  intro x addr0 s hpc
  have hkey := keyHeld_keyNumber s (s.getV x)
  refine ⟨decodesAs_x (top := 0xE) (sub := 0x9E) rfl, decodesAs_x (top := 0xE) (sub := 0xA1) rfl,
    completes_skip_if rfl hpc ?_, completes_skip_unless rfl hpc ?_⟩
  · rw [hkey]
  · rw [hkey, Bool.not_eq_true', Bool.not_eq_true]

/-- Settles O34: each of the two writes `V[x]` to its timer alone. -/
theorem timersAreSetFromRegisters : Obligations.TimersAreSetFromRegisters := by
  unfold Obligations.TimersAreSetFromRegisters
  intro x s
  exact ⟨decodesAs_x (top := 0xF) (sub := 0x15) rfl, decodesAs_x (top := 0xF) (sub := 0x18) rfl,
    ⟨_, rfl, rfl, frame_delay rfl _⟩, ⟨_, rfl, rfl, frame_sound rfl _⟩⟩

/-- Settles O36: the wait writes the run state alone. -/
theorem waitForKeyPauses : Obligations.WaitForKeyPauses := by
  unfold Obligations.WaitForKeyPauses
  intro x s
  exact ⟨decodesAs_x (top := 0xF) (sub := 0x0A) rfl, _, rfl, rfl, frame_runState rfl _⟩

end Sys2Proof.Machine
end

section
/-! PROOFS, 60_exceptions.md. What can stop an instruction, and what can be refused: by an instruction, a slot, a host operation, a step. -/

namespace Sys2Proof.Machine

variable {s : State} {r : Refusal}

/-- Settles O52: a return and a call each have their limit on the stack, and every other instruction computes to a next state. -/
theorem onlyStackLimitsStopAnInstruction : Obligations.OnlyStackLimitsStopAnInstruction := by
  unfold Obligations.OnlyStackLimitsStopAnInstruction
  intro i s
  cases i with
  | ret =>
    cases hs : s.stack with
    | nil => exact .inr (.inl ⟨rfl, rfl, execRet_of_nil s hs⟩)
    | cons a rest => exact .inl ⟨_, execRet_of_cons s hs⟩
  | call nnn =>
    rcases Nat.lt_or_ge s.stack.length Config.stackDepth with room | full
    · exact .inl ⟨_, execCall_of_room s nnn room⟩
    · exact .inr (.inr ⟨nnn, rfl, full, execCall_of_full s nnn full⟩)
  | _ => exact .inl ⟨_, rfl⟩

/-- No instruction is refused: it answers a next state or a fault at a stack limit. -/
theorem exec_ne_refused (i : Instr) (s : State) (r : Refusal) : exec i s ≠ .refused r := by
  obtain ⟨t, hexec⟩ | ⟨-, -, hexec⟩ | ⟨_, -, -, hexec⟩ := onlyStackLimitsStopAnInstruction i s <;>
    (rw [hexec]; nofun)

/-- No slot is refused: an unrecognised word and a Paused slot have a next state (40_cycle_fsm.md R73, R74). -/
theorem slotStep_ne_refused (s : State) (r : Refusal) : slotStep s ≠ .refused r := by
  cases hr : s.run with
  | paused x => rw [slotStep_of_paused s hr]; nofun
  | running =>
    cases hd : decodeWord s.fetchWord with
    | ok i => rw [slotStep_of_ok s hr hd]; exact exec_ne_refused i s.advance r
    | error e => rw [slotStep_of_error s hr hd]; nofun

/-- What a load that is refused is (70_reset_and_hazards.md R212): one that fits and one that is too long both have a next state. -/
theorem hostLoad_eq_refused {bytes : List Byte} (h : hostLoad bytes s = .refused r) :
    r = .loadNotAdmitted ∧ s.loadAllowed = false := by
  cases ha : s.loadAllowed with
  | false =>
    rw [hostLoad_of_not_allowed s bytes ha] at h
    cases h; exact ⟨rfl, rfl⟩
  | true =>
    rcases Nat.lt_or_ge 4096 (bytes.length + 0x200) with long | fits
    · rw [hostLoad_of_long s ha long] at h; cases h
    · rw [hostLoad_of_fits s ha fits] at h; cases h

/-- What a host operation that is refused is: the other three have a next state in every state. -/
theorem hostOp_eq_refused {o : HostOp} (h : hostOp o s = .refused r) :
    r = .loadNotAdmitted ∧ s.loadAllowed = false ∧ ∃ bytes, o = .load bytes := by
  cases o with
  | load bytes =>
    obtain ⟨hr, hallowed⟩ := hostLoad_eq_refused h
    exact ⟨hr, hallowed, bytes, rfl⟩
  | _ => cases h

/-- Settles O59: a step is the host operation that waits at a boundary, or a slot, which is never refused. -/
theorem stepRefusesOnlyMisplacedLoads : Obligations.StepRefusesOnlyMisplacedLoads := by
  unfold Obligations.StepRefusesOnlyMisplacedLoads
  intro s r h
  cases hp : s.pendingOp with
  | none =>
    rw [step_of_slot s hp] at h
    exact absurd (onNext_eq_refused h) (slotStep_ne_refused s.openSlot r)
  | some p =>
    obtain ⟨o, u⟩ := p
    obtain ⟨hslot, q, hqueue, -⟩ := (pendingOp_eq_some s).mp hp
    rw [step_of_op s hslot hqueue] at h
    obtain ⟨hr, hallowed, bytes, rfl⟩ := hostOp_eq_refused h
    exact ⟨hr, hslot, hallowed, bytes, q, hqueue⟩

end Sys2Proof.Machine
end

section
/-! PROOFS, 70_reset_and_hazards.md. The values reset gives, and the load that is admitted only where the core has them. -/

namespace Sys2Proof.Machine

open Sys2Proof.Safety

variable {s t : State}

/-! What the observers read after a reset (R210). The reset state is the reset of itself, so these speak of it too. -/

theorem hostReset_getV (s : State) (r : RegNo) : (hostReset s).getV r = 0 := by
  show (Vector.replicate Config.nregs (0 : Byte)).get r.toFin = 0
  simp [Vector.get_eq_getElem]

theorem hostReset_fbRead (s : State) (px : Fin Config.fbWidth) (py : Fin Config.fbHeight) :
    (hostReset s).fbRead px py = false :=
  pixel_of_FB_zero (hostReset s) rfl px.val py.val

theorem hostReset_readByte_font (s : State) (a : Word) (h : cellOf a < 80) :
    (hostReset s).readByte a = s.font[cellOf a] :=
  (readCell_of_mem_nil (hostReset s) rfl (cellOf a)).trans (unlisted_font s.font h)

theorem hostReset_readByte_zero (s : State) (a : Word) (h : 80 ≤ cellOf a) : (hostReset s).readByte a = 0 :=
  (readCell_of_mem_nil (hostReset s) rfl (cellOf a)).trans (unlisted_zero s.font h)

/-- Settles O47: the step is the reset; the registers, the frame buffer and memory read as above, and the other fields are the ones it writes. -/
theorem resetSetsEveryPieceOfState : Obligations.ResetSetsEveryPieceOfState := by
  unfold Obligations.ResetSetsEveryPieceOfState
  intro q s hslot hqueue
  rw [step_of_op s hslot hqueue]
  exact ⟨_, rfl, hostReset_getV _, rfl, rfl, rfl, rfl, rfl, hostReset_fbRead _, hostReset_readByte_font (s.withQueue q),
    hostReset_readByte_zero _, rfl, rfl, rfl, rfl, rfl, rfl, rfl⟩

/-- Settles O48: the reset state is the reset of itself. -/
theorem resetStateHasTheStatedValues : Obligations.ResetStateHasTheStatedValues := by
  unfold Obligations.ResetStateHasTheStatedValues
  have hfixed : State.reset = hostReset State.reset := rfl
  rw [hfixed]
  exact ⟨hostReset_getV _, rfl, rfl, rfl, rfl, rfl, hostReset_fbRead _, hostReset_readByte_font _,
    hostReset_readByte_zero _, rfl, rfl⟩

/-- Settles O56: the invariant holds after a reset of any state, and the reset state is the reset of itself. -/
theorem invariantHoldsAtReset : Obligations.InvariantHoldsAtReset := hostReset_inv State.reset

/-! Where a load is admitted (R212). -/

/-- Settles O46: the step is the load, which the flag does not admit. -/
theorem loadElsewhereIsNotAdmitted : Obligations.LoadElsewhereIsNotAdmitted := by
  unfold Obligations.LoadElsewhereIsNotAdmitted
  intro bytes q s hslot hqueue hallowed
  rw [step_of_op s hslot hqueue]
  exact hostLoad_of_not_allowed (s.withQueue q) bytes hallowed

theorem run_of_loadInv (w : LoadInv s) (h : s.loadAllowed = true) : s.run = .running := congrArg State.run (w h)

/-- A load is admitted at a boundary only. -/
theorem slot_of_loadInv (w : LoadInv s) (h : s.loadAllowed = true) : s.slot = 0 := congrArg State.slot (w h)

/-! The queue, the key levels and the report are not of the core. -/

theorem withQueue_loadInv (w : LoadInv s) (q : List HostEvent) : LoadInv (s.withQueue q) :=
  fun h => congrArg (State.withQueue · q) (w h)

theorem setKeys_loadInv (w : LoadInv s) (levels : BitVec Config.nkeys) : LoadInv { s with keys := levels } :=
  fun h => congrArg (fun u : State => { u with keys := levels }) (w h)

theorem emit_loadInv (w : LoadInv s) (e : Report) : LoadInv (s.emit e) := fun h => congrArg (State.emit · e) (w h)

theorem loadInv_of_not_allowed (h : s.loadAllowed = false) : LoadInv s := fun ha => absurd (h.symm.trans ha) Bool.false_ne_true

theorem hostReset_loadInv (s : State) : LoadInv (hostReset s) := fun _ => rfl

/-- Where a load is admitted the core is Running, so a key press is dropped there (40_cycle_fsm.md R77). -/
theorem hostKeyPress_loadInv (k : Nibble) (w : LoadInv s) : LoadInv (hostKeyPress k s) := by
  cases hr : s.run with
  | running => rwa [hostKeyPress_of_running s k hr]
  | paused x =>
    rw [hostKeyPress_of_paused s k hr]
    intro (hallowed : s.loadAllowed = true)
    exact absurd (hr.symm.trans (run_of_loadInv w hallowed)) RunState.noConfusion

theorem hostOp_loadInv {o : HostOp} (h : hostOp o s = .next t) (w : LoadInv s) : LoadInv t := by
  cases o with
  | keyPress k => cases h; exact hostKeyPress_loadInv k w
  | setKeys levels => cases h; exact setKeys_loadInv w levels
  | reset => cases h; exact hostReset_loadInv s
  | load bytes =>
    obtain ⟨-, ⟨-, rfl⟩ | ⟨-, rfl⟩⟩ := hostLoad_cases h
    · exact loadInv_of_not_allowed rfl
    · exact emit_loadInv w _

theorem slotStep_loadAllowed (h : slotStep s = .next t) : t.loadAllowed = s.loadAllowed := by
  obtain ⟨i, -, -, hexec⟩ | ⟨_, -, -, rfl⟩ | ⟨_, -, rfl⟩ := slotStep_cases s h
  · obtain ⟨-, -, -, -, -, hallowed, -⟩ := exec_sameSurroundings hexec
    exact hallowed
  · rfl
  · rfl

/-- No load is admitted in a slot: slot 0 ends the time for it, and it had ended before the others. -/
theorem openSlot_loadAllowed (w : LoadInv s) : s.openSlot.loadAllowed = false := by
  by_cases h0 : s.slot = 0
  · rw [openSlot_of_zero h0]; rfl
  · rw [openSlot_of_ne_zero s h0, State.quiet_loadAllowed]
    exact Bool.eq_false_iff.mpr fun hallowed => h0 (slot_of_loadInv w hallowed)

/-- Settles O57, by the cases of a step: a host operation keeps the core as reset left it or ends the time for a load; after a slot that time
has ended. -/
theorem loadMeetsOnlyTheResetState : Obligations.LoadMeetsOnlyTheResetState := by
  unfold Obligations.LoadMeetsOnlyTheResetState
  refine ⟨hostReset_loadInv State.reset, fun s t w h => ?_⟩
  obtain ⟨o, q, -, -, hop⟩ | ⟨-, u, hslot, rfl⟩ := step_cases s h
  · exact hostOp_loadInv hop (withQueue_loadInv w q)
  · apply loadInv_of_not_allowed
    calc u.closeSlot.loadAllowed = u.loadAllowed := closeSlot_loadAllowed u
      _ = s.openSlot.loadAllowed := slotStep_loadAllowed hslot
      _ = false := openSlot_loadAllowed w

end Sys2Proof.Machine
end
